-- ==== Sys2Proof/Word.lean ====
section
/-! DEFINITION. The word types of HASHCORE (00_scope.md R8): every value is an unsigned bit vector of a
stated width, and `+`, `&`, `|`, `^`, `~`, shifts on them are the modulo-2^n operators of R9. -/

namespace Sys2Proof

/-- A message, buffer or digest byte (u8). -/
abbrev Byte := BitVec 8

/-- A 32-bit word (u32): an MD5 word, a command word, a bus value. -/
abbrev Word := BitVec 32

/-- A 64-bit word (u64): a SHA-512 word, one entry of the H and V register files, LEN. -/
abbrev DWord := BitVec 64

end Sys2Proof
end

