-- ==== Sys2Proof/Syntax.lean ====
section
/-! DEFINITION. The nine commands of HASHCORE (30_encoding.md R74, opcode_table.json), one constructor a row. -/

namespace Sys2Proof

/-- ALG, the algorithm selector (10_state.md R24): 0 = MD5, 1 = SHA-512. -/
inductive Alg where
  | md5
  | sha512
  deriving DecidableEq, Repr

/-- HALF, which half of a chaining word RDCHAIN reads (46_digest.md R188): 0 = bits [31:0], 1 = bits [63:32]. -/
inductive Half where
  | lo
  | hi
  deriving DecidableEq, Repr

/-- A command with its operands as R73 reads them: BYTE is a message byte, IDX and J are natural numbers
(the field's bound is WellFormed's check), ALG and HALF are single bits. -/
inductive Instr where
  /-- NOP, OPC 0x00, form NONE (R200). -/
  | nop
  /-- INIT, OPC 0x01, form ALGSEL (R201). -/
  | init (alg : Alg)
  /-- ABSORB, OPC 0x02, form IMM8 (R135). -/
  | absorb (byte : Byte)
  /-- FINAL, OPC 0x03, form NONE (R136). -/
  | final
  /-- RDBYTE, OPC 0x04, form IDX8 (R185). -/
  | rdbyte (idx : Nat)
  /-- RDHEX, OPC 0x05, form IDX8 (R186). -/
  | rdhex (idx : Nat)
  /-- RDB64, OPC 0x06, form IDX8 (R187). -/
  | rdb64 (idx : Nat)
  /-- RDCHAIN, OPC 0x07, form CHAIN (R188). -/
  | rdchain (j : Nat) (half : Half)
  /-- CLRERR, OPC 0x08, form NONE (R202). -/
  | clrerr
  deriving DecidableEq, Repr

end Sys2Proof
end

