-- ==== Sys2Proof/Machine/Params.lean ====
section
/-! DEFINITION. The algorithm-indexed parameters (00_scope.md R7, R12): BS, LF, R, NV, DL and the length of the texts. -/

namespace Sys2Proof.Machine

/-- BS, the block size in bytes (R7). -/
def blockSize : Alg → Nat
  | .md5 => 64
  | .sha512 => 128

/-- LF, the length-field size in bytes (R7). -/
def lenFieldSize : Alg → Nat
  | .md5 => 8
  | .sha512 => 16

/-- R, the number of rounds (R7). -/
def rounds : Alg → Nat
  | .md5 => 64
  | .sha512 => 80

/-- NV, the number of working registers in use (R7, R21). -/
def workRegs : Alg → Nat
  | .md5 => 4
  | .sha512 => 8

/-- DL, the digest length in bytes (R7). -/
def digestLen : Alg → Nat
  | .md5 => 16
  | .sha512 => 64

/-- The number of hex characters, 2 * DL (R182). -/
def hexLen (alg : Alg) : Nat := 2 * digestLen alg

/-- The number of base64 characters, 4 * ceil(DL / 3) (R183): 24 for MD5, 88 for SHA-512. -/
def b64Len (alg : Alg) : Nat := 4 * ((digestLen alg + 2) / 3)

end Sys2Proof.Machine
end

