-- ==== Sys2Proof/Machine/Bytes.lean ====
section
/-! DEFINITION. Byte sequences and byte order (00_scope.md R10; 20_memory.md R58), and the reads and updates of the two
register files and the block buffer. Byte order is decided here once. -/

namespace Sys2Proof.Machine

/-- `le_n(v)`: the first `n` bytes of v, least significant first (R10). -/
def leBytes (n v : Nat) : List Byte := (List.range n).map fun k => BitVec.ofNat 8 (v >>> (8 * k))

/-- `be_n(v)`: the same bytes, most significant first (R10). -/
def beBytes (n v : Nat) : List Byte := (leBytes n v).reverse

/-- Byte `k` of a byte sequence. -/
def byteAt (bytes : List Byte) (k : Nat) : Byte := bytes.getD k 0

/-- `from_le` of the four bytes at `k`: the byte at `k` is bits [7:0] (R10, R150). -/
def fromLe32 (bytes : List Byte) (k : Nat) : Word :=
  byteAt bytes (k + 3) ++ byteAt bytes (k + 2) ++ byteAt bytes (k + 1) ++ byteAt bytes k

/-- `from_be` of the eight bytes at `k`: the byte at `k` is bits [63:56] (R10, R152). -/
def fromBe64 (bytes : List Byte) (k : Nat) : DWord :=
  byteAt bytes k ++ byteAt bytes (k + 1) ++ byteAt bytes (k + 2) ++ byteAt bytes (k + 3) ++
    byteAt bytes (k + 4) ++ byteAt bytes (k + 5) ++ byteAt bytes (k + 6) ++ byteAt bytes (k + 7)

/-- BUF[k] (R29). Every rule that reads BUF reads below 128. -/
def bufByte (buf : Vector Byte 128) (k : Nat) : Byte := if hk : k < 128 then buf[k] else 0

/-- BUF with every byte `k` replaced by `f k BUF[k]`, all at once. Irreducible, so that no proof unfolds 128
entries by accident: read it through bufByte_updateBuf (Laws/Bytes.lean). -/
@[irreducible] def updateBuf (buf : Vector Byte 128) (f : Nat → Byte → Byte) : Vector Byte 128 :=
  Vector.ofFn fun k => f k.val (bufByte buf k.val)

/-- `BUF[n] <- byte` (R135). -/
def putByte (n : Nat) (byte : Byte) (buf : Vector Byte 128) : Vector Byte 128 :=
  updateBuf buf fun k old => if k = n then byte else old

/-- H[i] or V[i] (R21, R22). Every rule that reads them reads below 8. -/
def regAt (r : Vector DWord 8) (i : Nat) : DWord := if hi : i < 8 then r[i] else 0

/-- A register file with every entry `i` replaced by `f i r[i]`, all at once. Irreducible for the
same reason: read it through regAt_updateRegs. -/
@[irreducible] def updateRegs (r : Vector DWord 8) (f : Nat → DWord → DWord) : Vector DWord 8 :=
  Vector.ofFn fun i => f i.val (regAt r i.val)

/-- `v[31:0]` of a 64-bit value. -/
def lowWord (v : DWord) : Word := v.extractLsb' 0 32

/-- `v[63:32]` of a 64-bit value. -/
def highWord (v : DWord) : Word := v.extractLsb' 32 32

/-- `zext_64` of a 32-bit value (R9). -/
def zext64 (v : Word) : DWord := v.setWidth 64

/-- `zext_32` of a byte (R9). -/
def zext32 (v : Byte) : Word := v.setWidth 32

end Sys2Proof.Machine
end

