-- ==== Sys2Proof/Machine/Primitives.lean ====
section
/-! DEFINITION. The bitwise primitives and modular additions (40_primitives.md R90 to R105). They are combinational: no
state, no flag, no error. The spec takes their formulas from RFC 1321 and FIPS 180-4 and marks it so (PRESUMED, log 11). -/

namespace Sys2Proof.Machine

/-- ADD32 (R90): addition modulo 2^32. -/
def add32 (x y : Word) : Word := x + y

/-- ADD64 (R91): addition modulo 2^64. -/
def add64 (x y : DWord) : DWord := x + y

/-- ROTL32 (R92). -/
def rotl32 (x : Word) (s : Nat) : Word := (x <<< s) ||| (x >>> (32 - s))

/-- ROTR64 (R93). -/
def rotr64 (x : DWord) (n : Nat) : DWord := (x >>> n) ||| (x <<< (64 - n))

/-- SHR64 (R94): logical, zero fill. -/
def shr64 (x : DWord) (n : Nat) : DWord := x >>> n

/-- MD5_F (R96). -/
def md5F (x y z : Word) : Word := (x &&& y) ||| (~~~x &&& z)

/-- MD5_G (R97). -/
def md5G (x y z : Word) : Word := (x &&& z) ||| (y &&& ~~~z)

/-- MD5_H (R98). -/
def md5H (x y z : Word) : Word := x ^^^ y ^^^ z

/-- MD5_I (R99). -/
def md5I (x y z : Word) : Word := y ^^^ (x ||| ~~~z)

/-- CH (R100). -/
def ch (x y z : DWord) : DWord := (x &&& y) ^^^ (~~~x &&& z)

/-- MAJ (R101). -/
def maj (x y z : DWord) : DWord := (x &&& y) ^^^ (x &&& z) ^^^ (y &&& z)

/-- BSIG0, Σ0 (R102). -/
def bsig0 (x : DWord) : DWord := rotr64 x 28 ^^^ rotr64 x 34 ^^^ rotr64 x 39

/-- BSIG1, Σ1 (R103). -/
def bsig1 (x : DWord) : DWord := rotr64 x 14 ^^^ rotr64 x 18 ^^^ rotr64 x 41

/-- SSIG0, σ0 (R104). -/
def ssig0 (x : DWord) : DWord := rotr64 x 1 ^^^ rotr64 x 8 ^^^ shr64 x 7

/-- SSIG1, σ1 (R105). -/
def ssig1 (x : DWord) : DWord := rotr64 x 19 ^^^ rotr64 x 61 ^^^ shr64 x 6

end Sys2Proof.Machine
end

