-- ==== Sys2Proof/Machine/Scheduler.lean ====
section
/-! DEFINITION. The word scheduler (43_scheduler.md R150 to R154): pure functions of the block being compressed, given
as its bytes. -/

namespace Sys2Proof.Machine

/-- X[j], the MD5 message word (R150): little-endian. -/
def md5Word (block : List Byte) (j : Nat) : Word := fromLe32 block (4 * j)

/-- The word MD5 round `t` uses, X[IDX_MD5[t]] (R151). -/
def md5RoundWord (block : List Byte) (t : Nat) : Word := md5Word block (idxMd5 t)

/-- W[t] for t in 0..15 (R152): big-endian. -/
def shaMessageWord (block : List Byte) (t : Nat) : DWord := fromBe64 block (8 * t)

/-- W[t] from the sixteen words before it, W[t-16] first (R153). -/
def shaNextWord (window : List DWord) : DWord :=
  add64 (add64 (add64 (window.getD 0 0) (ssig0 (window.getD 1 0))) (window.getD 9 0)) (ssig1 (window.getD 14 0))

/-- The sixteen schedule words from W[t] on. R154 allows a model to keep a 16-word sliding window (log 10). -/
def shaWindow (block : List Byte) : Nat → List DWord
  | 0 => (List.range 16).map (shaMessageWord block)
  | t + 1 => (shaWindow block t).tail ++ [shaNextWord (shaWindow block t)]

/-- W[t], the SHA-512 schedule word of round `t` (R152, R153). -/
def shaWord (block : List Byte) (t : Nat) : DWord := (shaWindow block t).getD 0 0

end Sys2Proof.Machine
end

