-- ==== Sys2Proof/Machine/Compress.lean ====
section
/-! DEFINITION. The two compression engines as functions of a block: one round (44_md5_compression.md R160, R161;
45_sha512_compression.md R170, R171), and the whole block function (R162, R172) that the engine's steps compute. -/

namespace Sys2Proof.Machine

/-- The MD5 working registers a, b, c, d: V[0..3] as 32-bit views (R23). -/
structure Md5Regs where
  a : Word
  b : Word
  c : Word
  d : Word
  deriving DecidableEq, Repr

/-- MD5_FUNC, the mixing function of each round group (R161). -/
def md5Func (t : Nat) (b c d : Word) : Word :=
  if t < 16 then md5F b c d else if t < 32 then md5G b c d else if t < 48 then md5H b c d else md5I b c d

/-- MD5ROUND(t) on the working registers (R160). -/
def md5Round (block : List Byte) (t : Nat) (r : Md5Regs) : Md5Regs :=
  let f := md5Func t r.b r.c r.d
  let x := add32 (add32 (add32 r.a f) (kMd5 t)) (md5RoundWord block t)
  { a := r.d, b := add32 r.b (rotl32 x (sMd5 t)), c := r.b, d := r.c }

/-- The working registers after rounds 0 .. n-1. -/
def md5Rounds (block : List Byte) (start : Md5Regs) : Nat → Md5Regs
  | 0 => start
  | n + 1 => md5Round block n (md5Rounds block start n)

/-- md5_compress (R162). -/
def md5Compress (hin : Md5Regs) (block : List Byte) : Md5Regs :=
  let out := md5Rounds block hin 64
  { a := add32 hin.a out.a, b := add32 hin.b out.b, c := add32 hin.c out.c, d := add32 hin.d out.d }

/-- The SHA-512 working registers a .. h: V[0..7] (R23). -/
structure Sha512Regs where
  a : DWord
  b : DWord
  c : DWord
  d : DWord
  e : DWord
  f : DWord
  g : DWord
  h : DWord
  deriving DecidableEq, Repr

/-- The mixing term T1 (R171). -/
def shaT1 (r : Sha512Regs) (k w : DWord) : DWord :=
  add64 (add64 (add64 (add64 r.h (bsig1 r.e)) (ch r.e r.f r.g)) k) w

/-- The mixing term T2 (R171). -/
def shaT2 (r : Sha512Regs) : DWord := add64 (bsig0 r.a) (maj r.a r.b r.c)

/-- SHA512ROUND(t) on the working registers, given its schedule word (R170). -/
def sha512Round (w : DWord) (t : Nat) (r : Sha512Regs) : Sha512Regs :=
  let t1 := shaT1 r (kSha t) w
  { a := add64 t1 (shaT2 r), b := r.a, c := r.b, d := r.c, e := add64 r.d t1, f := r.e, g := r.f, h := r.g }

/-- The working registers after rounds 0 .. n-1. -/
def sha512Rounds (block : List Byte) (start : Sha512Regs) : Nat → Sha512Regs
  | 0 => start
  | n + 1 => sha512Round (shaWord block n) n (sha512Rounds block start n)

/-- sha512_compress (R172). -/
def sha512Compress (hin : Sha512Regs) (block : List Byte) : Sha512Regs :=
  let out := sha512Rounds block hin 80
  { a := add64 hin.a out.a, b := add64 hin.b out.b, c := add64 hin.c out.c, d := add64 hin.d out.d,
    e := add64 hin.e out.e, f := add64 hin.f out.f, g := add64 hin.g out.g, h := add64 hin.h out.h }

/-- The MD5 registers held in a register file: bits [31:0] of entries 0..3 (R23, R160). -/
def loadMd5 (r : Vector DWord 8) : Md5Regs :=
  { a := lowWord (regAt r 0), b := lowWord (regAt r 1), c := lowWord (regAt r 2), d := lowWord (regAt r 3) }

/-- A register file with the MD5 registers written to entries 0..3, zero-extended; entries 4..7 unchanged (R160). -/
def storeMd5 (r : Vector DWord 8) (m : Md5Regs) : Vector DWord 8 :=
  updateRegs r fun i old =>
    match i with
    | 0 => zext64 m.a
    | 1 => zext64 m.b
    | 2 => zext64 m.c
    | 3 => zext64 m.d
    | _ => old

/-- The SHA-512 registers held in a register file (R23). -/
def loadSha (r : Vector DWord 8) : Sha512Regs :=
  { a := regAt r 0, b := regAt r 1, c := regAt r 2, d := regAt r 3,
    e := regAt r 4, f := regAt r 5, g := regAt r 6, h := regAt r 7 }

/-- A register file with the SHA-512 registers written to entries 0..7 (R170). -/
def storeSha (r : Vector DWord 8) (m : Sha512Regs) : Vector DWord 8 :=
  updateRegs r fun i old =>
    match i with
    | 0 => m.a
    | 1 => m.b
    | 2 => m.c
    | 3 => m.d
    | 4 => m.e
    | 5 => m.f
    | 6 => m.g
    | 7 => m.h
    | _ => old

end Sys2Proof.Machine
end

