-- ==== Sys2Proof/Machine/Padding.lean ====
section
/-! DEFINITION. Padding as a function of the whole message (42_preprocessor.md R130 to R133), and the padding of the block
buffer that FINAL and the engine do (R136, R137). -/

namespace Sys2Proof.Machine

/-- lenfield(L) (R132): the bit length 8 * L, for MD5 64 bits little-endian modulo 2^64, for SHA-512 128 bits
big-endian. R132 also says that bytes 0..7 of the SHA-512 field are always zero, which its formula denies of byte 7 for L
of 2^61 or more: the formula is followed (DEDUCED, log 18). -/
def lenField : Alg → Nat → List Byte
  | .md5, len => leBytes 8 (8 * len % 2 ^ 64)
  | .sha512, len => beBytes 16 (8 * len % 2 ^ 128)

/-- z, the zero-fill count of a message of `len` bytes (R130). -/
def zeroFill (alg : Alg) (len : Nat) : Nat :=
  let r := len % blockSize alg
  if r ≤ blockSize alg - lenFieldSize alg - 1 then blockSize alg - lenFieldSize alg - 1 - r
  else 2 * blockSize alg - lenFieldSize alg - 1 - r

/-- pad(M) (R130). -/
def pad (alg : Alg) (m : List Byte) : List Byte :=
  m ++ [0x80] ++ List.replicate (zeroFill alg m.length) 0x00 ++ lenField alg m.length

/-- N, the number of padded blocks of a message of `len` bytes (R133). -/
def blockCount (alg : Alg) (len : Nat) : Nat := (len + lenFieldSize alg) / blockSize alg + 1

/-- B_i, block `i` of the padded message (R133). -/
def paddedBlock (alg : Alg) (m : List Byte) (i : Nat) : List Byte :=
  ((pad alg m).drop (i * blockSize alg)).take (blockSize alg)

/-- BUF[0..BS-1], the block the rounds read (R29, R139). -/
def blockOf (alg : Alg) (buf : Vector Byte 128) : List Byte := (List.range (blockSize alg)).map (bufByte buf)

/-- Whether the length field fits in the block that holds `n` message bytes: n <= BS - LF - 1 (R136). -/
def lenFits (alg : Alg) (n : Nat) : Bool := decide (n ≤ blockSize alg - lenFieldSize alg - 1)

/-- Byte `k` of the length field as it lies in the last LF bytes of a block (R133). -/
def lenFieldByte (alg : Alg) (len : DWord) (k : Nat) : Byte :=
  byteAt (lenField alg len.toNat) (k - (blockSize alg - lenFieldSize alg))

/-- FINAL's writes to BUF (R136): 0x80 at `n`, zeros up to BS-1, and the length field in the last LF bytes when it
fits. -/
def padFirst (alg : Alg) (n : Nat) (len : DWord) (buf : Vector Byte 128) : Vector Byte 128 :=
  updateBuf buf fun k old =>
    if k = n then 0x80
    else if n < k ∧ k < blockSize alg then
      if lenFits alg n ∧ blockSize alg - lenFieldSize alg ≤ k then lenFieldByte alg len k else 0x00
    else old

/-- pad_second()'s writes to BUF (R137): zeros, then the length field. -/
def padSecondBuf (alg : Alg) (len : DWord) (buf : Vector Byte 128) : Vector Byte 128 :=
  updateBuf buf fun k old =>
    if k < blockSize alg - lenFieldSize alg then 0x00
    else if k < blockSize alg then lenFieldByte alg len k
    else old

end Sys2Proof.Machine
end

