-- ==== Sys2Proof/Machine/Digest.lean ====
section
/-! DEFINITION. The digest assembler and encoder (46_digest.md R180 to R184): digest bytes, hex text, base64 text, and the
document's digest functions of a whole message. -/

namespace Sys2Proof.Machine

/-- D, the digest bytes held in H: MD5 word-wise little-endian (R180), SHA-512 word-wise big-endian (R181). -/
def digestBytes : Alg → Vector DWord 8 → List Byte
  | .md5, h => (List.range 4).flatMap fun i => leBytes 4 (lowWord (regAt h i)).toNat
  | .sha512, h => (List.range 8).flatMap fun i => beBytes 8 (regAt h i).toNat

/-- HEXDIGIT (R182). -/
def hexDigit (n : BitVec 4) : Byte :=
  if n.toNat ≤ 9 then 0x30 + n.setWidth 8 else 0x61 + (n.setWidth 8 - 10)

/-- hexchar(i) of the bytes D (R182). -/
def hexChar (d : List Byte) (i : Nat) : Byte :=
  if i % 2 = 0 then hexDigit ((byteAt d (i / 2)).extractLsb' 4 4) else hexDigit ((byteAt d (i / 2)).extractLsb' 0 4)

/-- ALPHABET (R183). -/
def b64Alphabet (n : BitVec 6) : Byte :=
  if n.toNat ≤ 25 then 0x41 + n.setWidth 8
  else if n.toNat ≤ 51 then 0x61 + (n.setWidth 8 - 26)
  else if n.toNat ≤ 61 then 0x30 + (n.setWidth 8 - 52)
  else if n.toNat = 62 then 0x2B
  else 0x2F

/-- b64char(i) of the bytes D (R183); DL is the length of D. -/
def b64Char (d : List Byte) (i : Nat) : Byte :=
  let g := i / 4
  let k := i % 4
  let n := min 3 (d.length - 3 * g)
  let v : BitVec 24 :=
    byteAt d (3 * g) ++ (if 2 ≤ n then byteAt d (3 * g + 1) else 0x00) ++ (if 3 ≤ n then byteAt d (3 * g + 2) else 0x00)
  if n < k then 0x3D else b64Alphabet (v.extractLsb' (18 - 6 * k) 6)

/-- The hex text of D (R182). -/
def hexText (d : List Byte) : List Byte := (List.range (2 * d.length)).map (hexChar d)

/-- The base64 text of D (R183). -/
def b64Text (d : List Byte) : List Byte := (List.range (4 * ((d.length + 2) / 3))).map (b64Char d)

/-- The MD5 initial chaining value as registers (R120). -/
def ivMd5Regs : Md5Regs := { a := ivMd5 0, b := ivMd5 1, c := ivMd5 2, d := ivMd5 3 }

/-- The SHA-512 initial chaining value as registers (R124). -/
def ivShaRegs : Sha512Regs :=
  { a := ivSha 0, b := ivSha 1, c := ivSha 2, d := ivSha 3, e := ivSha 4, f := ivSha 5, g := ivSha 6, h := ivSha 7 }

/-- H_n, the MD5 chaining value after the first `n` padded blocks of M (R164, R184). -/
def md5Chain (m : List Byte) : Nat → Md5Regs
  | 0 => ivMd5Regs
  | n + 1 => md5Compress (md5Chain m n) (paddedBlock .md5 m n)

/-- H_n, the SHA-512 chaining value after the first `n` padded blocks of M (R174, R184). -/
def shaChain (m : List Byte) : Nat → Sha512Regs
  | 0 => ivShaRegs
  | n + 1 => sha512Compress (shaChain m n) (paddedBlock .sha512 m n)

/-- assemble_md5 (R180, R184). -/
def assembleMd5 (r : Md5Regs) : List Byte :=
  leBytes 4 r.a.toNat ++ leBytes 4 r.b.toNat ++ leBytes 4 r.c.toNat ++ leBytes 4 r.d.toNat

/-- assemble_sha (R181, R184). -/
def assembleSha (r : Sha512Regs) : List Byte :=
  beBytes 8 r.a.toNat ++ beBytes 8 r.b.toNat ++ beBytes 8 r.c.toNat ++ beBytes 8 r.d.toNat ++
    beBytes 8 r.e.toNat ++ beBytes 8 r.f.toNat ++ beBytes 8 r.g.toNat ++ beBytes 8 r.h.toNat

/-- digestMD5(M) and digestSHA512(M) (R184). -/
def digest : Alg → List Byte → List Byte
  | .md5, m => assembleMd5 (md5Chain m (blockCount .md5 m.length))
  | .sha512, m => assembleSha (shaChain m (blockCount .sha512 m.length))

end Sys2Proof.Machine
end

