-- ==== Sys2Proof/WellFormed.lean ====
section
/-! DEFINITION. Which commands fit the command word: the operand field bounds of 30_encoding.md R72 and R78.
The execution-time ranges of R73 are narrower and are no part of this check (R78). -/

namespace Sys2Proof

/-- IDX is 8 bits wide and J is 4 bits wide (R73: "IDX a natural number 0..255, J a natural number 0..15"); an
operand outside does not fit its field (R78). -/
def Instr.wellFormed : Instr → Bool
  | .nop => true
  | .init _ => true
  | .absorb _ => true
  | .final => true
  | .rdbyte idx => decide (idx < 256)
  | .rdhex idx => decide (idx < 256)
  | .rdb64 idx => decide (idx < 256)
  | .rdchain j _ => decide (j < 16)
  | .clrerr => true

/-- The check as a proposition. -/
abbrev Instr.WellFormed (i : Instr) : Prop := i.wellFormed = true

end Sys2Proof
end

