-- ==== Sys2Proof/Decode.lean ====
section
/-! DEFINITION. The command decoder and encoder (30_encoding.md R70 to R76). Every command is one 32-bit word;
the decoder is total and rejects by name; the encoder is written from the same field table (R71, R72). -/

namespace Sys2Proof

/-- Why a word is illegal (R76): every one of them is recorded as E_ILLEGAL. -/
inductive Illegal where
  /-- RSV, bits [23:16], is not 0. -/
  | reservedField
  /-- OPC is one of 0x09..0xFF. -/
  | reservedOpcode
  /-- A must-be-zero bit of the opcode's operand form is 1. -/
  | mustBeZero
  deriving DecidableEq, Repr

/-- What the decoder answers: a command or, by name, why there is none. -/
inductive Decoded where
  | command (i : Instr)
  | illegal (why : Illegal)
  deriving DecidableEq, Repr

/-- OPC, w[31:24] (R71). -/
def opcField (w : Word) : BitVec 8 := w.extractLsb' 24 8

/-- RSV, w[23:16] (R71). -/
def rsvField (w : Word) : BitVec 8 := w.extractLsb' 16 8

/-- OPERAND, w[15:0] (R71). -/
def operandField (w : Word) : BitVec 16 := w.extractLsb' 0 16

/-- ALG read from its bit: 0 MD5, 1 SHA-512 (R24). -/
def algOfBit (b : BitVec 1) : Alg := if b = 0 then .md5 else .sha512

/-- HALF read from its bit: 0 low, 1 high (R188). -/
def halfOfBit (b : BitVec 1) : Half := if b = 0 then .lo else .hi

/-- Form NONE (R72): every operand bit must be zero. -/
def decodeNone (operand : BitVec 16) (i : Instr) : Decoded :=
  if operand = 0 then .command i else .illegal .mustBeZero

/-- Form ALGSEL (R72): operand bits [15:1] must be zero, bit 0 is ALG. -/
def decodeAlgSel (operand : BitVec 16) (i : Alg → Instr) : Decoded :=
  if operand.extractLsb' 1 15 = 0 then .command (i (algOfBit (operand.extractLsb' 0 1))) else .illegal .mustBeZero

/-- Forms IMM8 and IDX8 (R72): operand bits [15:8] must be zero, bits [7:0] are the operand. -/
def decodeByte (operand : BitVec 16) (i : BitVec 8 → Instr) : Decoded :=
  if operand.extractLsb' 8 8 = 0 then .command (i (operand.extractLsb' 0 8)) else .illegal .mustBeZero

/-- Form CHAIN (R72): operand bits [15:5] must be zero, bit 4 is HALF, bits [3:0] are J. -/
def decodeChain (operand : BitVec 16) (i : BitVec 4 → Half → Instr) : Decoded :=
  if operand.extractLsb' 5 11 = 0 then
    .command (i (operand.extractLsb' 0 4) (halfOfBit (operand.extractLsb' 4 1)))
  else .illegal .mustBeZero

/-- The decoder of R75, total on every 32-bit word: RSV first, then the opcode, then the form's must-be-zero bits. -/
def decode (w : Word) : Decoded :=
  if rsvField w ≠ 0 then .illegal .reservedField
  else
    match (opcField w).toNat with
    | 0x00 => decodeNone (operandField w) .nop
    | 0x01 => decodeAlgSel (operandField w) .init
    | 0x02 => decodeByte (operandField w) .absorb
    | 0x03 => decodeNone (operandField w) .final
    | 0x04 => decodeByte (operandField w) fun idx => .rdbyte idx.toNat
    | 0x05 => decodeByte (operandField w) fun idx => .rdhex idx.toNat
    | 0x06 => decodeByte (operandField w) fun idx => .rdb64 idx.toNat
    | 0x07 => decodeChain (operandField w) fun j half => .rdchain j.toNat half
    | 0x08 => decodeNone (operandField w) .clrerr
    | _ => .illegal .reservedOpcode

/-- The command a word decodes to, if any. -/
def Decoded.command? : Decoded → Option Instr
  | .command i => some i
  | .illegal _ => none

/-- The host's view of the decoder: the command whose bits are `w`, every bit above `nbits` being 0. Every command is
one 32-bit word written as a number (R70; the byte order on the bus is not observable, R59); a number that does not
fit one command word is no command. -/
def decodeTableWord (nbits w : Nat) : Option Instr :=
  if w % 2 ^ nbits < 2 ^ 32 then (decode (BitVec.ofNat 32 (w % 2 ^ nbits))).command? else none

/-- A command word from its opcode and operand, RSV = 0 (R71). -/
def commandWord (opc : BitVec 8) (operand : BitVec 16) : Word := opc ++ (0 : BitVec 8) ++ operand

/-- The bit of ALG (R24). -/
def Alg.bit : Alg → BitVec 1
  | .md5 => 0
  | .sha512 => 1

/-- The bit of HALF (R188). -/
def Half.bit : Half → BitVec 1
  | .lo => 0
  | .hi => 1

/-- Operand of form ALGSEL (R72). -/
def operandAlgSel (alg : Alg) : BitVec 16 := (0 : BitVec 15) ++ alg.bit

/-- Operand of forms IMM8 and IDX8 (R72). -/
def operandByte (b : BitVec 8) : BitVec 16 := (0 : BitVec 8) ++ b

/-- Operand of form CHAIN (R72). -/
def operandChain (j : BitVec 4) (half : Half) : BitVec 16 := (0 : BitVec 11) ++ half.bit ++ j

/-- The command word of a well-formed command (R71, R72, R74, R78). -/
def encode : Instr → Word
  | .nop => commandWord 0x00 0
  | .init alg => commandWord 0x01 (operandAlgSel alg)
  | .absorb byte => commandWord 0x02 (operandByte byte)
  | .final => commandWord 0x03 0
  | .rdbyte idx => commandWord 0x04 (operandByte (BitVec.ofNat 8 idx))
  | .rdhex idx => commandWord 0x05 (operandByte (BitVec.ofNat 8 idx))
  | .rdb64 idx => commandWord 0x06 (operandByte (BitVec.ofNat 8 idx))
  | .rdchain j half => commandWord 0x07 (operandChain (BitVec.ofNat 4 j) half)
  | .clrerr => commandWord 0x08 0

/-- A row of the opcode map: a word w is the command when `(w & mask) = match` (R74). -/
structure OpcodeRow where
  mnemonic : String
  pattern : Word
  mask : Word
  deriving DecidableEq, Repr

/-- The opcode map of R74, one row per command. -/
def opcodeMap : List OpcodeRow :=
  [⟨"NOP", 0x00000000, 0xFFFFFFFF⟩,
   ⟨"INIT", 0x01000000, 0xFFFFFFFE⟩,
   ⟨"ABSORB", 0x02000000, 0xFFFFFF00⟩,
   ⟨"FINAL", 0x03000000, 0xFFFFFFFF⟩,
   ⟨"RDBYTE", 0x04000000, 0xFFFFFF00⟩,
   ⟨"RDHEX", 0x05000000, 0xFFFFFF00⟩,
   ⟨"RDB64", 0x06000000, 0xFFFFFF00⟩,
   ⟨"RDCHAIN", 0x07000000, 0xFFFFFFE0⟩,
   ⟨"CLRERR", 0x08000000, 0xFFFFFFFF⟩]

/-- The row's test (R74). -/
def OpcodeRow.selects (r : OpcodeRow) (w : Word) : Bool := w &&& r.mask == r.pattern

/-- The mnemonic of a command's row (R74). -/
def Instr.mnemonic : Instr → String
  | .nop => "NOP"
  | .init _ => "INIT"
  | .absorb _ => "ABSORB"
  | .final => "FINAL"
  | .rdbyte _ => "RDBYTE"
  | .rdhex _ => "RDHEX"
  | .rdb64 _ => "RDB64"
  | .rdchain _ _ => "RDCHAIN"
  | .clrerr => "CLRERR"

end Sys2Proof
end

