-- ==== Sys2Proof/Machine/State.lean ====
section
/-! DEFINITION. The complete state of one HASHCORE instance (10_state.md R20), the inputs that reach it from outside
(its host and the RESET line, R207), what stops a step, and the state after RESET (R44). -/

namespace Sys2Proof.Machine

/-- PHASE (R25): 0 IDLE, 1 ABSORB, 2 FINAL, 3 DONE. -/
inductive Phase where
  | idle
  | absorb
  | final
  | done
  deriving DecidableEq, Repr

/-- The values ERRCODE takes (60_exceptions.md R221). Codes 6..15 are reserved and never recorded, so they are no value
of this type (DEDUCED, log 8). -/
inductive ErrCode where
  | eNone
  | eIllegal
  | eBusy
  | eSequence
  | eRange
  | eOverflow
  deriving DecidableEq, Repr

/-- What can come next from outside the engine, or its turn: the step relation of R207 has host accesses, engine steps
and RESET, in any order. A state holds the order as data (log 1). -/
inductive Input where
  /-- The schedule gives the ENGINE agent its turn (R210); without BUSY it has no step and the turn changes nothing. -/
  | engineTurn
  /-- The host reads `bits` bits at `off` in the register window (20_memory.md R52). -/
  | busRead (bits off : Nat)
  /-- The host writes `bits` bits at `off` in the register window (R53); `value` is read only when `bits` is 32. -/
  | busWrite (bits off : Nat) (value : Word)
  /-- The RESET input is asserted (70_reset_and_hazards.md R250). -/
  | reset
  deriving DecidableEq, Repr

/-- The state of one instance. The first thirteen fields are the spec's (R20); the last two are the model's own and hold
the outside world's side: what it will do, and what its reads returned. The constant ROMs of R20 are definitions
(Machine/Rom.lean): nothing writes them (R40, R126). -/
structure State where
  /-- H[0..7], the chaining registers (R21). -/
  h : Vector DWord 8
  /-- V[0..7], the round registers (R22). -/
  v : Vector DWord 8
  /-- ALG (R24). -/
  alg : Alg
  /-- PHASE (R25). -/
  phase : Phase
  /-- BUSY: the engine is compressing a block (R26). -/
  busy : Bool
  /-- RND, the round counter (R27). -/
  rnd : BitVec 7
  /-- NBLK, padding blocks still to compress (R28). -/
  nblk : BitVec 2
  /-- BUF[0..127], the block buffer (R29): internal storage, no addressable memory (R50, log 16). -/
  buf : Vector Byte 128
  /-- BUFCNT, message bytes in BUF not yet compressed (R29). -/
  bufcnt : BitVec 8
  /-- LEN, message bytes absorbed since the last INIT (R30). -/
  len : DWord
  /-- ERR, the sticky error flag (R32). -/
  err : Bool
  /-- ERRCODE, the first error since the last CLRERR or RESET (R32). -/
  errcode : ErrCode
  /-- RESULT, the value of the last read-out (R33). -/
  result : Word
  /-- MODEL'S OWN: what happens next, in order (log 1). -/
  inputs : List Input
  /-- MODEL'S OWN: the values the host's reads returned, oldest first (log 1). -/
  reads : List Word
  deriving DecidableEq, Repr

/-- What stops the machine. -/
inductive Fault where
  /-- ABSORB or FINAL would write BUF[BUFCNT] with BUFCNT above 127, a buffer byte that does not exist (R29: "BUF is 128
  bytes"). Raised by execAbsorb and execFinal. Safe: no state that RESET leads to is such a state (R43), and the spec
  gives no effect there (log 5). -/
  | bufIndexBeyondBuffer
  deriving DecidableEq, Repr

/-- Why a step has no meaning. -/
inductive Refusal where
  /-- An instruction with no meaning yet. Raised by no arm of this model. -/
  | notModelled (mnemonic : String)
  /-- A bus access that is not 32 bits wide, not at a multiple of 4, or not below 0x40 (R54: "the host step is
  refused"). Raised by serveInput. Safe: the spec gives it no meaning (log 6). -/
  | accessNotAdmitted (bits off : Nat)
  deriving DecidableEq, Repr

/-- What a step or a command answers. -/
abbrev Result := Host.Outcome State Fault Refusal

/-- The machine after RESET (R44, R250). H, V and BUF have no reset value in the spec; zero is this model's (DESIGN
CHOICE, log 2), and nothing reads it (R45). -/
def State.reset : State where
  h := Vector.replicate 8 0
  v := Vector.replicate 8 0
  alg := .md5
  phase := .idle
  busy := false
  rnd := 0
  nblk := 0
  buf := Vector.replicate 128 0
  bufcnt := 0
  len := 0
  err := false
  errcode := .eNone
  result := 0
  inputs := []
  reads := []

end Sys2Proof.Machine
end

