-- ==== Sys2Proof/Machine/Flags.lean ====
section
/-! DEFINITION. The STATUS register and the codes of its fields (10_state.md R34, R35). HASHCORE has no condition codes. -/

namespace Sys2Proof.Machine

/-- The two bits of PHASE (R25). -/
def Phase.code : Phase → BitVec 2
  | .idle => 0
  | .absorb => 1
  | .final => 2
  | .done => 3

/-- The four bits of ERRCODE (60_exceptions.md R221). -/
def ErrCode.code : ErrCode → BitVec 4
  | .eNone => 0
  | .eIllegal => 1
  | .eBusy => 2
  | .eSequence => 3
  | .eRange => 4
  | .eOverflow => 5

/-- STATUS (R35): {BUFCNT, 0b0000, ERRCODE, 0b00, PHASE, 0b0, ALG, ERR, BUSY} zero-extended to 32 bits. -/
def statusWord (s : State) : Word :=
  (0 : BitVec 8) ++ s.bufcnt ++ (0 : BitVec 4) ++ s.errcode.code ++ (0 : BitVec 2) ++ s.phase.code ++ (0 : BitVec 1) ++
    s.alg.bit ++ BitVec.ofBool s.err ++ BitVec.ofBool s.busy

/-- LEN_LO (R38). -/
def lenLo (s : State) : Word := lowWord s.len

/-- LEN_HI (R38). -/
def lenHi (s : State) : Word := highWord s.len

end Sys2Proof.Machine
end

