-- ==== Sys2Proof/Machine/Operands.lean ====
section
/-! DEFINITION. What a command's operands and the machine's phase must be for it to run: the ranges of 30_encoding.md R73
and the phase legality of 47_control.md R204. -/

namespace Sys2Proof.Machine

/-- in_range(c, ALG): the operand ranges of R73; a command without a ranged operand is always in range. -/
def inRange : Instr → Alg → Bool
  | .nop, _ => true
  | .init _, _ => true
  | .absorb _, _ => true
  | .final, _ => true
  | .rdbyte idx, alg => decide (idx < digestLen alg)
  | .rdhex idx, alg => decide (idx < hexLen alg)
  | .rdb64 idx, alg => decide (idx < b64Len alg)
  | .rdchain j half, .md5 => decide (j < 4) && half == .lo
  | .rdchain j _, .sha512 => decide (j < 8)
  | .clrerr, _ => true

/-- legal_phases(c), the rows of R204. -/
def legalPhase : Instr → Phase → Bool
  | .nop, _ => true
  | .init _, _ => true
  | .clrerr, _ => true
  | .absorb _, p => p == .absorb
  | .final, p => p == .absorb
  | .rdbyte _, p => p == .done
  | .rdhex _, p => p == .done
  | .rdb64 _, p => p == .done
  | .rdchain _ _, p => p == .absorb || p == .done

/-- The largest LEN, 2^64 - 1: an ABSORB there is rejected (R203, R138). -/
def maxLen : DWord := 0xFFFFFFFFFFFFFFFF

end Sys2Proof.Machine
end

