-- ==== Sys2Proof/Machine/Ops.lean ====
section
/-! DEFINITION. The operations commands and engine steps share: recording an error and clearing it (60_exceptions.md R222,
47_control.md R202), the command checks (R203), starting and completing a block (R209, R211), the engine step (R210),
and reading the register window (20_memory.md R52). -/

namespace Sys2Proof.Machine

/-- `raise Error(code)` (R222): the first error since the last clear is recorded and sticks; nothing else changes. This is
all that "taking an exception" is here: no trap, no saved state, no vector (R220, R228). -/
def raiseError (code : ErrCode) (s : State) : State := if s.err then s else { s with err := true, errcode := code }

/-- CLRERR's effect, the only return from an error beside RESET (R202, R225). -/
def clearError (s : State) : State := { s with err := false, errcode := .eNone }

/-- The checks of exec_cmd on a decoded command, in their order (R203, R223): the error of the first that fails. E_ILLEGAL
comes before them all and is the decoder's (execCmd). -/
def rejection (i : Instr) (s : State) : Option ErrCode :=
  if s.busy && i != .nop then some .eBusy
  else if !legalPhase i s.phase then some .eSequence
  else if !inRange i s.alg then some .eRange
  else
    match i with
    | .absorb _ => if s.len = maxLen then some .eOverflow else none
    | _ => none

/-- A command behind its checks: rejected with the error recorded and no other effect, or its effect (R203, R220). -/
def guarded (i : Instr) (s : State) (effect : Result) : Result :=
  match rejection i s with
  | some code => .next (raiseError code s)
  | none => effect

/-- start_block() (R209). -/
def startBlock (s : State) : State := { s with v := s.h, rnd := 0, busy := true }

/-- pad_second() (42_preprocessor.md R137). -/
def padSecond (s : State) : State :=
  startBlock { s with buf := padSecondBuf s.alg s.len s.buf, nblk := 1 }

/-- complete_block() (R211). -/
def completeBlock (s : State) : State :=
  if s.phase = .final ∧ s.nblk = 2 then padSecond s
  else if s.phase = .final then { s with busy := false, bufcnt := 0, phase := .done, nblk := 0 }
  else { s with busy := false, bufcnt := 0 }

/-- The engine step that is MD5ROUND(RND) (44_md5_compression.md R160). -/
def md5RoundStep (s : State) : State :=
  { s with v := storeMd5 s.v (md5Round (blockOf .md5 s.buf) s.rnd.toNat (loadMd5 s.v)), rnd := s.rnd + 1 }

/-- The engine step that is SHA512ROUND(RND) (45_sha512_compression.md R170). -/
def sha512RoundStep (s : State) : State :=
  { s with
    v := storeSha s.v (sha512Round (shaWord (blockOf .sha512 s.buf) s.rnd.toNat) s.rnd.toNat (loadSha s.v)),
    rnd := s.rnd + 1 }

/-- H after MD5's feed-forward: entries 0..3 only (R163). -/
def md5FeedH (h v : Vector DWord 8) : Vector DWord 8 :=
  updateRegs h fun i old => if i < 4 then zext64 (add32 (lowWord old) (lowWord (regAt v i))) else old

/-- H after SHA-512's feed-forward: all eight entries (R173). -/
def sha512FeedH (h v : Vector DWord 8) : Vector DWord 8 := updateRegs h fun i old => add64 old (regAt v i)

/-- MD5FEED (R163). -/
def md5Feed (s : State) : State := completeBlock { s with h := md5FeedH s.h s.v }

/-- SHA512FEED (R173). -/
def sha512Feed (s : State) : State := completeBlock { s with h := sha512FeedH s.h s.v }

/-- One engine step (R210). The spec's "else" branch is RND = R; a larger RND is reached by no run and takes the same
branch (DEDUCED, log 7). -/
def engineStep (s : State) : State :=
  match s.alg with
  | .md5 => if s.rnd.toNat < rounds .md5 then md5RoundStep s else md5Feed s
  | .sha512 => if s.rnd.toNat < rounds .sha512 then sha512RoundStep s else sha512Feed s

/-- The ENGINE agent's turn: it has a step exactly when BUSY = 1 (R210); otherwise every piece of state keeps its value
(60_exceptions.md R242; the stutter is a DESIGN CHOICE, log 3). -/
def engineTurn (s : State) : State := if s.busy then engineStep s else s

/-- RESET (70_reset_and_hazards.md R250): every element takes its reset value. The host's own side, its coming accesses and
what its reads returned, is no state of HASHCORE and stays (log 9). -/
def resetState (s : State) : State := { State.reset with inputs := s.inputs, reads := s.reads }

/-- An admitted bus access (20_memory.md R54): 32 bits wide, at a multiple of 4 below 0x40. -/
def admitted (bits off : Nat) : Bool := decide (bits = 32) && decide (off % 4 = 0) && decide (off < 0x40)

/-- The value BusRead(off) returns (R52); offsets 0x14..0x3C are reserved and read 0 (R39). -/
def busReadValue (off : Nat) (s : State) : Word :=
  match off with
  | 0x00 => 0
  | 0x04 => statusWord s
  | 0x08 => s.result
  | 0x0C => lenLo s
  | 0x10 => lenHi s
  | _ => 0

/-- BusRead(off): the value goes to the host; no state of HASHCORE changes (R52, R56). -/
def busRead (off : Nat) (s : State) : State := { s with reads := s.reads ++ [busReadValue off s] }

/-- RESULT written by a read-out command, which writes nothing else (46_digest.md section 2). -/
def setResult (value : Word) (s : State) : State := { s with result := value }

end Sys2Proof.Machine
end

