-- ==== Sys2Proof/Machine/Control.lean ====
section
/-! DEFINITION. The commands that carry no data: NOP, INIT, CLRERR (47_control.md R200 to R202). -/

namespace Sys2Proof.Machine

/-- NOP (R200): accepted in every state, changes none. -/
def execNop (s : State) : Result := guarded .nop s (.next s)

/-- The chaining value INIT loads (R201): the IV, and zero in the entries MD5 does not use. -/
def initH : Alg → Vector DWord 8
  | .md5 => Vector.ofFn fun i => if i.val < 4 then zext64 (ivMd5 i.val) else 0
  | .sha512 => Vector.ofFn fun i => ivSha i.val

/-- INIT's effect (R201). V, RND and BUF are left as they were; ERR and ERRCODE are not cleared. -/
def beginDigest (alg : Alg) (s : State) : State :=
  { s with alg := alg, h := initH alg, len := 0, bufcnt := 0, nblk := 0, result := 0, phase := .absorb }

/-- INIT (R201). -/
def execInit (alg : Alg) (s : State) : Result := guarded (.init alg) s (.next (beginDigest alg s))

/-- CLRERR (R202). -/
def execClrerr (s : State) : Result := guarded .clrerr s (.next (clearError s))

end Sys2Proof.Machine
end

