-- ==== Sys2Proof/Machine/Message.lean ====
section
/-! DEFINITION. The commands that take the message: ABSORB and FINAL (42_preprocessor.md R135, R136). -/

namespace Sys2Proof.Machine

/-- ABSORB's writes before a full buffer is compressed (R135): BUF[BUFCNT], BUFCNT and LEN. -/
def takeByte (byte : Byte) (s : State) : State :=
  { s with
    buf := putByte s.bufcnt.toNat byte s.buf,
    bufcnt := s.bufcnt + 1,
    len := s.len + 1 }

/-- ABSORB's effect (R135): take the byte, and start the block when BUFCNT has become BS. -/
def absorbByte (byte : Byte) (s : State) : State :=
  if (s.bufcnt + 1).toNat = blockSize s.alg then startBlock (takeByte byte s) else takeByte byte s

/-- ABSORB (R135). BUF has no byte at or above 128 (log 5). -/
def execAbsorb (byte : Byte) (s : State) : Result :=
  guarded (.absorb byte) s (if s.bufcnt.toNat < 128 then .next (absorbByte byte s) else .fault .bufIndexBeyondBuffer)

/-- FINAL's effect (R136): pad the block, count the padding blocks, start compressing. -/
def padAndStart (s : State) : State :=
  startBlock
    { s with
      phase := .final,
      buf := padFirst s.alg s.bufcnt.toNat s.len s.buf,
      nblk := if lenFits s.alg s.bufcnt.toNat then 1 else 2 }

/-- FINAL (R136). BUF has no byte at or above 128 (log 5). -/
def execFinal (s : State) : Result :=
  guarded .final s (if s.bufcnt.toNat < 128 then .next (padAndStart s) else .fault .bufIndexBeyondBuffer)

end Sys2Proof.Machine
end

