-- ==== Sys2Proof/Machine/ReadOut.lean ====
section
/-! DEFINITION. The read-out commands RDBYTE, RDHEX, RDB64 and RDCHAIN (46_digest.md R185 to R188). -/

namespace Sys2Proof.Machine

/-- The digest bytes D of a state (R180, R181). -/
def digestOf (s : State) : List Byte := digestBytes s.alg s.h

/-- RDBYTE (R185). -/
def execRdbyte (idx : Nat) (s : State) : Result :=
  guarded (.rdbyte idx) s (.next (setResult (zext32 (byteAt (digestOf s) idx)) s))

/-- RDHEX (R186). -/
def execRdhex (idx : Nat) (s : State) : Result :=
  guarded (.rdhex idx) s (.next (setResult (zext32 (hexChar (digestOf s) idx)) s))

/-- RDB64 (R187). -/
def execRdb64 (idx : Nat) (s : State) : Result :=
  guarded (.rdb64 idx) s (.next (setResult (zext32 (b64Char (digestOf s) idx)) s))

/-- The half of H[j] that RDCHAIN reads (R188). -/
def chainHalf (half : Half) (v : DWord) : Word :=
  match half with
  | .lo => lowWord v
  | .hi => highWord v

/-- RDCHAIN (R188). -/
def execRdchain (j : Nat) (half : Half) (s : State) : Result :=
  guarded (.rdchain j half) s (.next (setResult (chainHalf half (regAt s.h j)) s))

end Sys2Proof.Machine
end

