-- ==== Sys2Proof/Machine/Dispatch.lean ====
section
/-! DEFINITION. The dispatch of a decoded command to its meaning ("perform c", 47_control.md R203), one arm a constructor. -/

namespace Sys2Proof.Machine

def exec (i : Instr) (s : State) : Host.Outcome State Fault Refusal :=
  match i with
  | .nop => Sys2Proof.Machine.execNop s
  | .init alg => Sys2Proof.Machine.execInit alg s
  | .absorb byte => Sys2Proof.Machine.execAbsorb byte s
  | .final => Sys2Proof.Machine.execFinal s
  | .rdbyte idx => Sys2Proof.Machine.execRdbyte idx s
  | .rdhex idx => Sys2Proof.Machine.execRdhex idx s
  | .rdb64 idx => Sys2Proof.Machine.execRdb64 idx s
  | .rdchain j half => Sys2Proof.Machine.execRdchain j half s
  | .clrerr => Sys2Proof.Machine.execClrerr s

end Sys2Proof.Machine
end

