-- ==== Sys2Proof/Machine/Bus.lean ====
section
/-! DEFINITION. What reaches the machine from outside, one atomic step each (20_memory.md R52 to R55; 47_control.md R203,
R207): a bus access, RESET, or the engine's turn. -/

namespace Sys2Proof.Machine

/-- exec_cmd (R203): a word written to CMD. An illegal word records E_ILLEGAL and has no other effect (R76). -/
def execCmd (w : Word) (s : State) : Result :=
  match decode w with
  | .illegal _ => .next (raiseError .eIllegal s)
  | .command i => exec i s

/-- BusWrite(off, value) (R53): only CMD has an effect; STATUS, RESULT, LEN_LO, LEN_HI and the reserved offsets ignore
it. -/
def busWrite (off : Nat) (value : Word) (s : State) : Result := if off = 0x00 then execCmd value s else .next s

/-- One input, served in one atomic step (R55, R207). An access that is not admitted is refused (R54). -/
def serveInput (x : Input) (s : State) : Result :=
  match x with
  | .engineTurn => .next (engineTurn s)
  | .busRead bits off => if admitted bits off then .next (busRead off s) else .refused (.accessNotAdmitted bits off)
  | .busWrite bits off value =>
    if admitted bits off then busWrite off value s else .refused (.accessNotAdmitted bits off)
  | .reset => .next (resetState s)

/-- The input that writes a command word to CMD, `BusWrite(0x00, w)` (R70). -/
def cmdWrite (w : Word) : Input := .busWrite 32 0x00 w

end Sys2Proof.Machine
end

