-- ==== Sys2Proof/Machine/Step.lean ====
section
/-! DEFINITION. One step of the machine (47_control.md R207): the next input of the schedule, or, when the schedule is
empty, the engine's turn. Every interleaving of host steps, engine steps and RESET is some schedule (20_memory.md R61). -/

namespace Sys2Proof.Machine

/-- One step. With no input left the engine goes on until BUSY = 0 and the machine then stays as it is (logs 1, 3). -/
def step (s : State) : Host.Outcome State Fault Refusal :=
  match s.inputs with
  | [] => .next (engineTurn s)
  | x :: rest => serveInput x { s with inputs := rest }

/-- `s` with the command of bits `w` as the host's very next access, a write to CMD: HASHCORE fetches no instruction (R64),
a command runs when the host writes it (log 1). -/
def State.withFetchWord (s : State) (nbits w : Nat) : State :=
  { s with inputs := cmdWrite (BitVec.ofNat 32 (w % 2 ^ nbits)) :: s.inputs }

end Sys2Proof.Machine
end

