-- ==== Sys2Proof/Machine/HostProgram.lean ====
section
/-! DEFINITION. The host's side as the spec gives it: the command notation (30_encoding.md R77 to R80), the UTF-8 rule that
keeps text outside the engine (60_exceptions.md R226), how a host runs a program beside the machine (47_control.md R207), and
reading the texts back (46_digest.md R189). Nothing here is state of HASHCORE: what is left of a host program is the host's. -/

namespace Sys2Proof.Machine

/-- A token of the notation (R77, R78): a word, a decimal or hex number, a quoted character given by its byte value, a
quoted text given by its code points, or a comma. -/
inductive Token where
  | name (text : String)
  | num (value : Nat)
  | char (value : Byte)
  | text (codes : List Nat)
  | comma
  deriving DecidableEq, Repr

/-- The value of a digit character below `base`. -/
def digitOf (base : Nat) (c : Char) : Option Nat :=
  let n := c.toNat
  let v :=
    if 0x30 ≤ n ∧ n ≤ 0x39 then some (n - 0x30)
    else if 0x41 ≤ n ∧ n ≤ 0x46 then some (n - 0x41 + 10)
    else if 0x61 ≤ n ∧ n ≤ 0x66 then some (n - 0x61 + 10)
    else none
  v.filter (· < base)

/-- A row of digits, most significant first, after those that gave `acc`. -/
def digitsValue (base acc : Nat) : List Char → Option Nat
  | [] => some acc
  | c :: cs =>
    match digitOf base c with
    | some d => digitsValue base (base * acc + d) cs
    | none => none

/-- The token of an unquoted run of characters: `0x` hex, decimal, or a word (R78). -/
def tokenOfRun : List Char → Option Token
  | '0' :: 'x' :: d :: ds => (digitsValue 16 0 (d :: ds)).map .num
  | c :: cs =>
    if (digitOf 10 c).isSome then (digitsValue 10 0 (c :: cs)).map .num
    else some (.name (String.ofList (c :: cs)))
  | [] => none

/-- The token a run gives, if it is not empty, before the tokens that follow. -/
def endRun (run : List Char) (rest : Option (List Token)) : Option (List Token) :=
  if run = [] then rest
  else
    match tokenOfRun run, rest with
    | some t, some ts => some (t :: ts)
    | _, _ => none

/-- Where the reader of a line stands: in an unquoted run, in a quoted text, or in a quoted character. -/
inductive LexMode where
  | run (chars : List Char)
  | text (codes : List Nat)
  | quote (chars : List Char)
  deriving DecidableEq, Repr

/-- The tokens of a line (R77, R78): `;` begins a comment, spaces separate, commas stand alone, `'c'` is an ASCII character
and `"…"` a text (DESIGN CHOICE, log 15). -/
def tokens : LexMode → List Char → Option (List Token)
  | .run r, [] => endRun r (some [])
  | .run r, c :: cs =>
    if c = ';' then endRun r (some [])
    else if c = ' ' then endRun r (tokens (.run []) cs)
    else if c = ',' then endRun r ((tokens (.run []) cs).map fun ts => .comma :: ts)
    else if c = '"' ∧ r = [] then tokens (.text []) cs
    else if c = '\'' ∧ r = [] then tokens (.quote []) cs
    else tokens (.run (r ++ [c])) cs
  | .text _, [] => none
  | .text codes, c :: cs =>
    if c = '"' then (tokens (.run []) cs).map fun ts => .text codes :: ts else tokens (.text (codes ++ [c.toNat])) cs
  | .quote _, [] => none
  | .quote [], c :: cs => tokens (.quote [c]) cs
  | .quote (q :: _), c :: cs =>
    if c = '\'' ∧ q.toNat < 128 then (tokens (.run []) cs).map fun ts => .char (BitVec.ofNat 8 q.toNat) :: ts else none

/-- A number that must fit below `bound`, added to a base word (R78). -/
def assembleNat (base : Word) (bound value : Nat) : Option Word :=
  if value < bound then some (base + BitVec.ofNat 32 value) else none

/-- The word of a command in the notation of R78; "An assembler refuses an operand outside the ranges shown". -/
def assemble : List Token → Option Word
  | [.name "nop"] => some 0x00000000
  | [.name "init", .name "md5"] => some 0x01000000
  | [.name "init", .name "sha512"] => some 0x01000001
  | [.name "absorb", .num b] => assembleNat 0x02000000 256 b
  | [.name "absorb", .char c] => assembleNat 0x02000000 256 c.toNat
  | [.name "final"] => some 0x03000000
  | [.name "rdbyte", .num i] => assembleNat 0x04000000 256 i
  | [.name "rdhex", .num i] => assembleNat 0x05000000 256 i
  | [.name "rdb64", .num i] => assembleNat 0x06000000 256 i
  | [.name "rdchain", .num j] => assembleNat 0x07000000 16 j
  | [.name "rdchain", .num j, .comma, .name "lo"] => assembleNat 0x07000000 16 j
  | [.name "rdchain", .num j, .comma, .name "hi"] => assembleNat 0x07000010 16 j
  | [.name "clrerr"] => some 0x08000000
  | _ => none

/-- A command written in the notation of R78. -/
def commandTokens : Instr → List Token
  | .nop => [.name "nop"]
  | .init .md5 => [.name "init", .name "md5"]
  | .init .sha512 => [.name "init", .name "sha512"]
  | .absorb b => [.name "absorb", .num b.toNat]
  | .final => [.name "final"]
  | .rdbyte i => [.name "rdbyte", .num i]
  | .rdhex i => [.name "rdhex", .num i]
  | .rdb64 i => [.name "rdb64", .num i]
  | .rdchain j .lo => [.name "rdchain", .num j, .comma, .name "lo"]
  | .rdchain j .hi => [.name "rdchain", .num j, .comma, .name "hi"]
  | .clrerr => [.name "clrerr"]

/-- The registers `lw` names (R77). -/
inductive ReadReg where
  | status
  | result
  | lenLo
  | lenHi
  deriving DecidableEq, Repr

/-- The window offset of a readable register (R57). -/
def ReadReg.offset : ReadReg → Nat
  | .status => 0x04
  | .result => 0x08
  | .lenLo => 0x0C
  | .lenHi => 0x10

/-- The UTF-8 bytes of a code point (R226); a lone surrogate, and a number above 0x10FFFF, has none: the host's
`EncodingError`. -/
def utf8Char (u : Nat) : Option (List Byte) :=
  if u < 0x80 then some [BitVec.ofNat 8 u]
  else if u < 0x800 then some [BitVec.ofNat 8 (0xC0 + u / 64), BitVec.ofNat 8 (0x80 + u % 64)]
  else if 0xD800 ≤ u ∧ u ≤ 0xDFFF then none
  else if u < 0x10000 then
    some [BitVec.ofNat 8 (0xE0 + u / 4096), BitVec.ofNat 8 (0x80 + u / 64 % 64), BitVec.ofNat 8 (0x80 + u % 64)]
  else if u ≤ 0x10FFFF then
    some [BitVec.ofNat 8 (0xF0 + u / 262144), BitVec.ofNat 8 (0x80 + u / 4096 % 64),
      BitVec.ofNat 8 (0x80 + u / 64 % 64), BitVec.ofNat 8 (0x80 + u % 64)]
  else none

/-- The UTF-8 bytes of a text, or none when any of it has no encoding: then no ABSORB is issued for the text (R226). -/
def utf8Text : List Nat → Option (List Byte)
  | [] => some []
  | u :: us =>
    match utf8Char u, utf8Text us with
    | some bytes, some rest => some (bytes ++ rest)
    | _, _ => none

/-- A line of a host program (R77) or a pseudo-instruction (R79). -/
inductive HostLine where
  | sw (c : Instr)
  | swWord (w : Word)
  | lw (r : ReadReg)
  | wait
  | absorbw (byte : Byte)
  | absorbs (text : List Nat)
  | finalw
  | readhex (alg : Alg)
  | readb64 (alg : Alg)
  | readbytes (alg : Alg)
  deriving DecidableEq, Repr

/-- What a line expands to (R77, R79): a write to CMD, a read, or the loop `wait`, whose reads STATUS itself ends. -/
inductive HostOp where
  | write (w : Word)
  | read (r : ReadReg)
  | wait
  deriving DecidableEq, Repr

/-- The access the host makes for an operation; `wait` reads STATUS (R79). -/
def HostOp.access : HostOp → Input
  | .write w => cmdWrite w
  | .read r => .busRead 32 r.offset
  | .wait => .busRead 32 ReadReg.status.offset

/-- Whether the host repeats the operation after its access led to `s`: `wait` does while s[0] = 1 in the value read
(R79). -/
def HostOp.again (s : State) : HostOp → Bool
  | .write _ => false
  | .read _ => false
  | .wait => (s.reads.getLast?.getD 0).getLsbD 0

/-- `sw CMD, <command>` ; `wait` (R79). -/
def swWait (c : Instr) : List HostOp := [.write (encode c), .wait]

/-- A read-out of characters 0 .. n-1, each command followed by `lw RESULT` (R79). -/
def readLoop (n : Nat) (c : Nat → Instr) : List HostOp :=
  (List.range n).flatMap fun i => [.write (encode (c i)), .read .result]

/-- What a line expands to, or none where the assembler or the host's encoder refuses it (R77, R78, R79). -/
def HostLine.expand : HostLine → Option (List HostOp)
  | .sw c => if c.wellFormed then some [.write (encode c)] else none
  | .swWord w => some [.write w]
  | .lw r => some [.read r]
  | .wait => some [.wait]
  | .absorbw byte => some (swWait (.absorb byte))
  | .absorbs text => (utf8Text text).map fun bytes => bytes.flatMap fun b => swWait (.absorb b)
  | .finalw => some (swWait .final)
  | .readhex alg => some (readLoop (hexLen alg) .rdhex)
  | .readb64 alg => some (readLoop (b64Len alg) .rdb64)
  | .readbytes alg => some (readLoop (digestLen alg) .rdbyte)

/-- What a program expands to: its lines in order, or none where one of them is refused. -/
def programOps : List HostLine → Option (List HostOp)
  | [] => some []
  | l :: ls =>
    match l.expand, programOps ls with
    | some ops, some rest => some (ops ++ rest)
    | _, _ => none

/-- A host that runs a program on a machine: what is left of the program, and the machine. -/
structure HostRun where
  todo : List HostOp
  machine : State
  deriving DecidableEq, Repr

/-- Who moves next (R207): the engine, the host with its next access, or RESET. -/
inductive Move where
  | engine
  | host
  | reset
  deriving DecidableEq, Repr

/-- The state with `x` as its very next input. -/
def State.offer (x : Input) (s : State) : State := { s with inputs := x :: s.inputs }

/-- The machine takes `x` as its next step, and `todo` says what is then left of the program. -/
def HostRun.serve (x : Input) (todo : State → List HostOp) (r : HostRun) : Host.Outcome HostRun Fault Refusal :=
  match step (r.machine.offer x) with
  | .next t => .next { todo := todo t, machine := t }
  | .fault why => .fault why
  | .refused why => .refused why

/-- One move. The host makes one access and goes on to the next operation unless the one it is at is to be repeated (R79:
"repeat L while s[0] = 1"); with nothing left to do its move changes nothing (log 13). -/
def HostRun.move (m : Move) (r : HostRun) : Host.Outcome HostRun Fault Refusal :=
  match m with
  | .engine => r.serve .engineTurn fun _ => r.todo
  | .reset => r.serve .reset fun _ => r.todo
  | .host =>
    match r.todo with
    | [] => .next r
    | op :: rest => r.serve op.access fun t => if op.again t then op :: rest else rest

/-- A run: the moves in the order given. Every interleaving of the host's accesses with engine steps and RESET is some list
of moves (R61, R207; DESIGN CHOICE, log 13). -/
def HostRun.run : List Move → HostRun → Host.Outcome HostRun Fault Refusal
  | [], r => .next r
  | m :: ms, r =>
    match r.move m with
    | .next q => HostRun.run ms q
    | .fault why => .fault why
    | .refused why => .refused why

/-- The register an `lw` names (R77). -/
def readRegOf (name : String) : Option ReadReg :=
  if name = "STATUS" then some .status
  else if name = "RESULT" then some .result
  else if name = "LEN_LO" then some .lenLo
  else if name = "LEN_HI" then some .lenHi
  else none

/-- The word a `sw CMD` writes (R77): a raw word below 2^32, or the word of a command. -/
def swWordOf : List Token → Option Word
  | [.num w] => if w < 2 ^ 32 then some (BitVec.ofNat 32 w) else none
  | command => assemble command

/-- The word of a `sw CMD` line, which may carry the word column that 95_test_vectors.md prints after the command: R77 is
silent on it, and the line is refused where the column is not the word (DESIGN CHOICE, log 15). -/
def printedWord (command : List Token) : Option Word :=
  match swWordOf command with
  | some w => some w
  | none =>
    match command.getLast?, swWordOf command.dropLast with
    | some (.num column), some w => if column = w.toNat then some w else none
    | _, _ => none

/-- The line its tokens are (R77, R79). What is noted after `->` is what the read returned and no part of the step (log 15).
`alg` is the algorithm the read loops use. -/
def parseLine (alg : Alg) : List Token → Option HostLine
  | .name "sw" :: .name "CMD" :: .comma :: command => (printedWord command).map .swWord
  | [.name "lw", .name r] => (readRegOf r).map .lw
  | .name "lw" :: .name r :: .name "->" :: _ => (readRegOf r).map .lw
  | [.name "wait"] => some .wait
  | [.name "absorbw", .num b] => if b < 256 then some (.absorbw (BitVec.ofNat 8 b)) else none
  | [.name "absorbw", .char c] => some (.absorbw c)
  | [.name "absorbs", .text codes] => some (.absorbs codes)
  | [.name "finalw"] => some .finalw
  | [.name "readhex"] => some (.readhex alg)
  | [.name "readb64"] => some (.readb64 alg)
  | [.name "readbytes"] => some (.readbytes alg)
  | _ => none

/-- What a written line stands for, or none where it is no line of the notation; a line with no token (a comment or
nothing) is no step. -/
def lineOps (alg : Alg) (line : List Char) : Option (List HostOp) :=
  match tokens (.run []) line with
  | none => none
  | some [] => some []
  | some ts =>
    match parseLine alg ts with
    | some l => l.expand
    | none => none

/-- The output encodings of the document's functions (R80). -/
inductive Encoding where
  | hex
  | base64
  deriving DecidableEq, Repr

/-- digestMD5(M, enc) and digestSHA512(M, enc) as a host program (R80). -/
def digestProgram (alg : Alg) (enc : Encoding) (m : List Byte) : List HostLine :=
  [.sw (.init alg)] ++ m.map .absorbw ++ [.finalw] ++
    [match enc with
     | .hex => .readhex alg
     | .base64 => .readb64 alg]

/-- The value of a lowercase hex digit (R182). -/
def hexValue (c : Byte) : Option Nat :=
  if 0x30 ≤ c.toNat ∧ c.toNat ≤ 0x39 then some (c.toNat - 0x30)
  else if 0x61 ≤ c.toNat ∧ c.toNat ≤ 0x66 then some (c.toNat - 0x61 + 10)
  else none

/-- The bytes a lowercase hex text stands for. -/
def hexDecode : List Byte → Option (List Byte)
  | [] => some []
  | hi :: lo :: rest =>
    match hexValue hi, hexValue lo, hexDecode rest with
    | some x, some y, some bytes => some (BitVec.ofNat 8 (16 * x + y) :: bytes)
    | _, _, _ => none
  | [_] => none

/-- The value of a base64 character (R183). -/
def b64Value (c : Byte) : Option Nat :=
  if 0x41 ≤ c.toNat ∧ c.toNat ≤ 0x5A then some (c.toNat - 0x41)
  else if 0x61 ≤ c.toNat ∧ c.toNat ≤ 0x7A then some (c.toNat - 0x61 + 26)
  else if 0x30 ≤ c.toNat ∧ c.toNat ≤ 0x39 then some (c.toNat - 0x30 + 52)
  else if c.toNat = 0x2B then some 62
  else if c.toNat = 0x2F then some 63
  else none

/-- The bytes a padded base64 text stands for (R183, R189): the last group may end in `=` or `==`. -/
def b64Decode : List Byte → Option (List Byte)
  | [] => some []
  | a :: b :: c :: d :: rest =>
    match b64Value a, b64Value b, b64Value c, b64Value d, b64Decode rest with
    | some w, some x, some y, some z, some bytes =>
      some (BitVec.ofNat 8 (4 * w + x / 16) :: BitVec.ofNat 8 (16 * x + y / 4) :: BitVec.ofNat 8 (64 * y + z) :: bytes)
    | some w, some x, some y, none, some [] =>
      if d = 0x3D ∧ rest = [] then some [BitVec.ofNat 8 (4 * w + x / 16), BitVec.ofNat 8 (16 * x + y / 4)] else none
    | some w, some x, none, none, some [] =>
      if c = 0x3D ∧ d = 0x3D ∧ rest = [] then some [BitVec.ofNat 8 (4 * w + x / 16)] else none
    | _, _, _, _, _ => none
  | _ => none

end Sys2Proof.Machine
end

