-- ==== Sys2Proof/Config.lean ====
section
/-! DEFINITION. What a platform fixes and the spec leaves OPEN (00_scope.md R7, 92_eei_decisions.md "Open parameters",
93_implementation_defined.md U14): the base address of each instance's window and the number of instances. Both are
opaque: no proof can see a value of either. No rule of the engine reads them; only Machine/Platform.lean does. -/

namespace Sys2Proof

/-- `HC_BASE` of instance `k`: "any, chosen by the platform"; a natural number, since the spec states no
address width (DESIGN CHOICE, log 12). -/
opaque Config.hcBase : Nat → Nat

/-- How many instances a platform has beyond the first. -/
opaque Config.hcMoreInstances : Nat

/-- `HC_INSTANCES`, at least 1 (R7, R240). -/
def Config.hcInstances : Nat := Config.hcMoreInstances + 1

end Sys2Proof
end

