-- ==== Sys2Proof/Machine/Platform.lean ====
section
/-! DEFINITION. A platform with several instances (60_exceptions.md R240), each with its own 64-byte window at its own base
(20_memory.md R50, R57). The instance count and the bases are the platform's (R7: `HC_INSTANCES`, `HC_BASE`). -/

namespace Sys2Proof.Machine

/-- A platform: the states of its instances, in the order of their numbers. -/
abbrev Platform := List State

/-- Every instance starts in the reset state (R240). -/
def Platform.reset : Platform := List.replicate Config.hcInstances State.reset

/-- The offset of a bus address in the window at `base`, if it lies in it (R50). The spec states no width for platform
addresses or for HC_BASE: they are natural numbers here, so no window wraps at the top of an address space (DESIGN CHOICE,
log 12). -/
def windowOffset (base addr : Nat) : Option Nat := if base ≤ addr ∧ addr < base + 64 then some (addr - base) else none

/-- The instance, among the first `n`, whose window holds a bus address, and the offset in it. Where windows overlap, the
first is taken; an address in no window is the platform's (R57) and has none (DESIGN CHOICE, log 12). -/
def routeAddress (base : Nat → Nat) (n addr : Nat) : Option (Nat × Nat) :=
  (List.range n).findSome? fun k => (windowOffset (base k) addr).map fun off => (k, off)

/-- What a bus master asks of an address: a read or a write of `bits` bits. -/
inductive Access where
  | read (bits : Nat)
  | write (bits : Nat) (value : Word)
  deriving DecidableEq, Repr

/-- The input an access is to the instance whose window it falls in. -/
def Access.input (off : Nat) : Access → Input
  | .read bits => .busRead bits off
  | .write bits value => .busWrite bits off value

/-- A platform with `x` appended to the inputs of instance `k`. -/
def Platform.post (k : Nat) (x : Input) (p : Platform) : Platform :=
  p.modify k fun s => { s with inputs := s.inputs ++ [x] }

/-- A bus access at a platform address, posted to the instance it reaches; none when it reaches no instance. -/
def Platform.access (addr : Nat) (a : Access) (p : Platform) : Option Platform :=
  (routeAddress Config.hcBase p.length addr).map fun target => p.post target.1 (a.input target.2)

/-- Instance `k` takes one step; the others keep their states (R240). A number with no instance has no step: the platform
stays as it is. -/
def Platform.stepAt (k : Nat) (p : Platform) : Host.Outcome Platform Fault Refusal :=
  match p[k]? with
  | none => .next p
  | some s =>
    match step s with
    | .next t => .next (p.set k t)
    | .fault r => .fault r
    | .refused r => .refused r

end Sys2Proof.Machine
end

