-- ==== Sys2Proof/Safety.lean ====
section
/-! DEFINITION. The terms claims use: the invariant of every reachable state (10_state.md R43), which state is live (R45),
and the host protocol of a digest (42_preprocessor.md R139, R141). -/

namespace Sys2Proof.Machine

/-- R43 items 1 and 2: a busy engine is in ABSORB or FINAL, and FINAL is always busy. -/
abbrev State.BusyPhases (s : State) : Prop :=
  (s.busy = true → s.phase = .absorb ∨ s.phase = .final) ∧ (s.phase = .final → s.busy = true)

/-- R43 items 3, 4 and 8: BUFCNT in ABSORB. -/
abbrev State.AbsorbCount (s : State) : Prop :=
  s.phase = .absorb →
    (s.busy = false → s.bufcnt.toNat < blockSize s.alg ∧ s.len.toNat % blockSize s.alg = s.bufcnt.toNat) ∧
    (s.busy = true → s.bufcnt.toNat = blockSize s.alg ∧ s.len.toNat % blockSize s.alg = 0 ∧ s.nblk = 0)

/-- R43 item 5, and R28's meaning of 2: the length field did not fit in the first padding block. -/
abbrev State.PaddingBlocks (s : State) : Prop :=
  (s.phase = .final → s.nblk = 1 ∨ s.nblk = 2) ∧ (s.phase ≠ .final → s.nblk = 0) ∧
    (s.nblk = 2 → lenFits s.alg s.bufcnt.toNat = false)

/-- R29: BUFCNT keeps its value through FINAL and is 0 in IDLE and DONE. -/
abbrev State.OtherCount (s : State) : Prop :=
  (s.phase = .final → s.bufcnt.toNat < blockSize s.alg ∧ s.len.toNat % blockSize s.alg = s.bufcnt.toNat) ∧
    (s.phase = .idle ∨ s.phase = .done → s.bufcnt = 0)

/-- R43 item 6 and R27: RND is at most R while busy, and 0 or the R of the last completed block when not. -/
abbrev State.RoundCount (s : State) : Prop :=
  (s.busy = true → s.rnd.toNat ≤ rounds s.alg) ∧ (s.busy = false → s.rnd = 0 ∨ s.rnd = 64 ∨ s.rnd = 80)

/-- A register file as MD5 leaves it: entries 0..3 below 2^32, entries 4..7 zero. -/
abbrev Md5File (r : Vector DWord 8) : Prop :=
  ∀ i : Fin 8, if i.val < 4 then (regAt r i.val).toNat < 2 ^ 32 else regAt r i.val = 0

/-- R43 item 7: MD5's register files hold 32-bit values. -/
abbrev State.Md5Widths (s : State) : Prop :=
  s.alg = .md5 → (s.phase ≠ .idle → Md5File s.h) ∧ (s.busy = true → Md5File s.v)

/-- R221, R222: ERRCODE is E_NONE exactly when ERR = 0. -/
abbrev State.ErrRecord (s : State) : Prop := s.err = false ↔ s.errcode = .eNone

/-- The invariant of every reachable state (R43 items 1 to 8, with R27, R28, R29 and R222). -/
abbrev State.Inv (s : State) : Prop :=
  s.BusyPhases ∧ s.AbsorbCount ∧ s.PaddingBlocks ∧ s.OtherCount ∧ s.RoundCount ∧ s.Md5Widths ∧ s.ErrRecord

/-- How many bytes of BUF a later rule may read (R45): the whole block while it is compressed, the bytes taken so far
while absorbing, none otherwise. -/
def liveBytes (s : State) : Nat :=
  if s.busy then blockSize s.alg else if s.phase = .absorb then s.bufcnt.toNat else 0

/-- Two states that differ at most in what the spec leaves unspecified and says is never read (R44, R45;
93_implementation_defined.md U1, U2): H before INIT, V and RND while not busy, and BUF beyond its live bytes. -/
def SameLive (s t : State) : Prop :=
  s.alg = t.alg ∧ s.phase = t.phase ∧ s.busy = t.busy ∧ s.nblk = t.nblk ∧ s.bufcnt = t.bufcnt ∧ s.len = t.len ∧
    s.err = t.err ∧ s.errcode = t.errcode ∧ s.result = t.result ∧ s.inputs = t.inputs ∧ s.reads = t.reads ∧
    (s.phase ≠ .idle → s.h = t.h) ∧ (s.busy = true → s.v = t.v ∧ s.rnd = t.rnd) ∧
    ∀ k, k < liveBytes s → bufByte s.buf k = bufByte t.buf k

/-- A command that begins, feeds or ends a message; every other word on CMD leaves the digest alone (R141). -/
def feeds : Decoded → Bool
  | .command (.init _) => true
  | .command (.absorb _) => true
  | .command .final => true
  | _ => false

/-- An input that may stand between the commands of a digest (R141): an engine turn, an admitted read, an admitted write
that neither begins, feeds nor ends a message. -/
def harmless : Input → Bool
  | .engineTurn => true
  | .busRead bits off => admitted bits off
  | .busWrite bits off value => admitted bits off && !(off == 0 && feeds (decode value))
  | .reset => false

/-- An input that records no error and writes no RESULT either: an engine turn, an admitted read, a NOP, or an admitted
write to a register other than CMD. -/
def silent : Input → Bool
  | .engineTurn => true
  | .busRead bits off => admitted bits off
  | .busWrite bits off value => admitted bits off && !(off == 0 && decode value != .command .nop)
  | .reset => false

/-- A message with the gap the host leaves after each byte. -/
abbrev GappedMessage := List (Byte × List Input)

/-- The command sequence of a digest (R139, R257): INIT, one ABSORB a byte, FINAL, with what happens between them. -/
def digestScript (alg : Alg) (first : List Input) (m : GappedMessage) (last : List Input) : List Input :=
  cmdWrite (encode (.init alg)) :: first ++
    (m.flatMap fun p => cmdWrite (encode (.absorb p.1)) :: p.2) ++ cmdWrite (encode .final) :: last

/-- The gaps of a digest script hold inputs of one kind only and are long enough for the waits the host must make: R + 1
engine turns after every BS-th byte, 2(R + 1) after FINAL (R139, R212, R254, R257). -/
def gapsOk (kind : Input → Bool) (alg : Alg) (first : List Input) (m : GappedMessage) (last : List Input) : Prop :=
  (∀ x ∈ first, kind x = true) ∧ (∀ p ∈ m, ∀ x ∈ p.2, kind x = true) ∧ (∀ x ∈ last, kind x = true) ∧
    (∀ i p, m[i]? = some p → (i + 1) % blockSize alg = 0 → rounds alg + 1 ≤ p.2.count .engineTurn) ∧
    2 * (rounds alg + 1) ≤ last.count .engineTurn

/-- `k` steps, stopping at the first fault or refusal. -/
def runSteps : Nat → State → Result
  | 0, s => .next s
  | k + 1, s =>
    match step s with
    | .next t => runSteps k t
    | .fault r => .fault r
    | .refused r => .refused r

/-- The next step of `s` is the engine's turn, taken in the state `s0`: `s` with the turn taken off its inputs. -/
def EngineMoves (s s0 : State) : Prop :=
  (s.inputs = [] ∧ s0 = s) ∨ ∃ rest, s.inputs = .engineTurn :: rest ∧ s0 = { s with inputs := rest }

/-- The command the next step writes to CMD, if it does and the word is one. -/
def nextCommand (s : State) : Option Instr :=
  match s.inputs with
  | .busWrite bits off value :: _ => if admitted bits off && off == 0 then (decode value).command? else none
  | _ => none

/-- Every word with this opcode and a bit of [23:lo] set is rejected with E_ILLEGAL (R224, its first column). -/
def RejectsIllegalForms (opc : BitVec 8) (lo : Nat) : Prop :=
  ∀ (w : Word) (s : State), w.extractLsb' 24 8 = opc → w.extractLsb' lo (24 - lo) ≠ 0 →
    execCmd w s = .next (raiseError .eIllegal s)

/-- The command is rejected in `s` with this error and no other effect (R222). -/
def Rejects (i : Instr) (s : State) (code : ErrCode) : Prop := exec i s = .next (raiseError code s)

/-- What `t` holds when complete_block() has run in `s` with the chaining registers `t.h` just written (R211, R137, R209):
the second padding block started, or the work ended. -/
def CompletesBlock (s t : State) : Prop :=
  (s.phase = .final → s.nblk = 2 →
    t.phase = .final ∧ t.nblk = 1 ∧ t.bufcnt = s.bufcnt ∧ t.busy = true ∧ t.rnd = 0 ∧ t.v = t.h ∧
    ∀ k, k < 128 → bufByte t.buf k =
      if k < blockSize s.alg - lenFieldSize s.alg then 0x00
      else if k < blockSize s.alg then
        byteAt (lenField s.alg s.len.toNat) (k - (blockSize s.alg - lenFieldSize s.alg))
      else bufByte s.buf k) ∧
  (s.phase = .final → s.nblk ≠ 2 →
    t.phase = .done ∧ t.nblk = 0 ∧ t.bufcnt = 0 ∧ t.busy = false ∧ t.rnd = s.rnd ∧ t.v = s.v ∧ t.buf = s.buf) ∧
  (s.phase ≠ .final →
    t.phase = s.phase ∧ t.nblk = s.nblk ∧ t.bufcnt = 0 ∧ t.busy = false ∧ t.rnd = s.rnd ∧ t.v = s.v ∧ t.buf = s.buf) ∧
  t.alg = s.alg ∧ t.len = s.len ∧ t.err = s.err ∧ t.errcode = s.errcode ∧ t.result = s.result ∧
    t.inputs = s.inputs ∧ t.reads = s.reads

/-- The primes below 410: the first 80 primes (R127). -/
def smallPrimes : List Nat := (List.range 410).filter fun p => decide (2 ≤ p ∧ ∀ q, q < p → 2 ≤ q → p % q ≠ 0)

end Sys2Proof.Machine
end

