-- ==== Sys2Proof/Certificates/Slice0/Obligations.lean ====
section
/-! DEFINITION. The statements for the provers, each from a numbered rule of spec/ or derived from its sections. -/

open Sys2Proof Sys2Proof.Machine

/-- Decoder and encoder are inverse on well-formed commands (derived: 30_encoding.md sections 1, 2 and 3). Every
well-formed command decodes back from its encoding with every operand, and every word the decoder accepts is
the encoding of exactly the well-formed command it gives. -/
def Obligations.DecodeEncodeRoundTrip : Prop :=
  (∀ i : Instr, i.WellFormed → decode (encode i) = .command i) ∧
  (∀ (w : Word) (i : Instr), decode w = .command i → i.WellFormed ∧ encode i = w)

/-- The decoder gives a command exactly on its opcode row, with the operands of R75, and Illegal exactly when no
row matches (stated: R75). For every 32-bit word: each command is decoded exactly when the word matches the
mask and pattern of its row, its operands are the bits R75 names, and the word is Illegal exactly when no row
of the opcode map selects it. -/
def Obligations.DecoderReadsOpcodeRows : Prop :=
  ∀ w : Word,
    (decode w = .command .nop ↔ w &&& 0xFFFFFFFF = 0x00000000) ∧
    (∀ alg, decode w = .command (.init alg) ↔
      w &&& 0xFFFFFFFE = 0x01000000 ∧ alg = (if w.extractLsb' 0 1 = 0 then Alg.md5 else Alg.sha512)) ∧
    (∀ b, decode w = .command (.absorb b) ↔ w &&& 0xFFFFFF00 = 0x02000000 ∧ b = w.extractLsb' 0 8) ∧
    (decode w = .command .final ↔ w &&& 0xFFFFFFFF = 0x03000000) ∧
    (∀ idx, decode w = .command (.rdbyte idx) ↔
      w &&& 0xFFFFFF00 = 0x04000000 ∧ idx = (w.extractLsb' 0 8).toNat) ∧
    (∀ idx, decode w = .command (.rdhex idx) ↔
      w &&& 0xFFFFFF00 = 0x05000000 ∧ idx = (w.extractLsb' 0 8).toNat) ∧
    (∀ idx, decode w = .command (.rdb64 idx) ↔
      w &&& 0xFFFFFF00 = 0x06000000 ∧ idx = (w.extractLsb' 0 8).toNat) ∧
    (∀ j half, decode w = .command (.rdchain j half) ↔
      w &&& 0xFFFFFFE0 = 0x07000000 ∧ j = (w.extractLsb' 0 4).toNat ∧
        half = (if w.extractLsb' 4 1 = 0 then Half.lo else Half.hi)) ∧
    (decode w = .command .clrerr ↔ w &&& 0xFFFFFFFF = 0x08000000) ∧
    ((∃ why, decode w = .illegal why) ↔ ∀ r ∈ opcodeMap, ¬ (w &&& r.mask = r.pattern))

/-- Words written out in the spec decode to the commands it names (derived: 95_test_vectors.md section V8). A word
of each of the nine commands, and four illegal words, decode as 95_test_vectors.md V8 lists. -/
def Obligations.SpecWordsDecode : Prop :=
  decode 0x00000000 = .command .nop ∧ decode 0x01000001 = .command (.init .sha512) ∧
  decode 0x02000061 = .command (.absorb 0x61) ∧ decode 0x03000000 = .command .final ∧
  decode 0x040000FF = .command (.rdbyte 255) ∧ decode 0x0500007F = .command (.rdhex 127) ∧
  decode 0x06000057 = .command (.rdb64 87) ∧ decode 0x0700001F = .command (.rdchain 15 .hi) ∧
  decode 0x08000000 = .command .clrerr ∧ decode 0x00000001 = .illegal .mustBeZero ∧
  decode 0x07000020 = .illegal .mustBeZero ∧ decode 0x02010061 = .illegal .reservedField ∧
  decode 0x09000000 = .illegal .reservedOpcode

/-- No two rows of the opcode map overlap (derived: 30_encoding.md section 3). A word that two rows of the opcode
map both select is a word of one row. -/
def Obligations.OpcodeRowsDisjoint : Prop :=
  ∀ (w : Word) (r q : OpcodeRow), r ∈ opcodeMap → q ∈ opcodeMap →
    w &&& r.mask = r.pattern → w &&& q.mask = q.pattern → r = q

/-- The command notation assembles to the encoded word and to nothing that does not decode (derived:
30_encoding.md section 5). Every well-formed command written in the notation assembles to its encoding, in the
second spellings too (absorb with a quoted character, rdchain without a half, which is the low half), an
ill-formed one is refused, and whatever assembles decodes to a well-formed command. -/
def Obligations.AssemblerAgreesWithDecoder : Prop :=
  (∀ i : Instr, i.WellFormed → assemble (commandTokens i) = some (encode i)) ∧
  (∀ c : Byte, assemble [.name "absorb", .char c] = some (encode (.absorb c))) ∧
  (∀ j : Nat, j < 16 → assemble [.name "rdchain", .num j] = some (encode (.rdchain j .lo))) ∧
  (∀ j : Nat, 16 ≤ j → assemble [.name "rdchain", .num j] = none) ∧
  (∀ i : Instr, ¬ i.WellFormed → assemble (commandTokens i) = none) ∧
  (∀ (line : List Token) (w : Word), assemble line = some w → ∃ i : Instr, i.WellFormed ∧ decode w = .command i)

/-- A step whose next input writes a command to CMD is that command (derived: 47_control.md section 2,
20_memory.md section 2). When the host's next access writes to CMD a word that decodes to a command, the step
is exec of that command on the state with the access taken off the inputs. The placement of a word by
withFetchWord gives the same. -/
def Obligations.StepRunsDecodedCommand : Prop :=
  (∀ (s : State) (rest : List Input) (w : Word) (i : Instr),
    s.inputs = .busWrite 32 0x00 w :: rest → decode w = .command i →
      step s = exec i { s with inputs := rest }) ∧
  (∀ (s : State) (w : Nat) (i : Instr), decodeTableWord 32 w = some i → step (s.withFetchWord 32 w) = exec i s)

/-- A word no row selects records E_ILLEGAL and has no other effect; NOP is one word only (stated: R76). A CMD
write of a word that matches no row of the opcode map leaves everything as it was but the error record, which
takes E_ILLEGAL when ERR = 0. Opcodes 0x09 to 0xFF, a non-zero RSV and a non-zero must-be-zero bit are such
words, and the only word that decodes to NOP is 0. -/
def Obligations.IllegalWordOnlyRecordsError : Prop :=
  (∀ (s : State) (rest : List Input) (w : Word), s.inputs = .busWrite 32 0x00 w :: rest →
    (∀ r ∈ opcodeMap, ¬ (w &&& r.mask = r.pattern)) →
      step s = .next
        (if s.err = true then { s with inputs := rest }
         else { s with inputs := rest, err := true, errcode := .eIllegal })) ∧
  (∀ w : Word, 0x09 ≤ (w.extractLsb' 24 8).toNat ∨ w.extractLsb' 16 8 ≠ 0 →
    ∀ r ∈ opcodeMap, ¬ (w &&& r.mask = r.pattern)) ∧
  RejectsIllegalForms 0x00 0 ∧ RejectsIllegalForms 0x01 1 ∧ RejectsIllegalForms 0x02 8 ∧ RejectsIllegalForms 0x03 0 ∧
  RejectsIllegalForms 0x04 8 ∧ RejectsIllegalForms 0x05 8 ∧ RejectsIllegalForms 0x06 8 ∧ RejectsIllegalForms 0x07 5 ∧
  RejectsIllegalForms 0x08 0 ∧
  (∀ w : Word, decode w = .command .nop ↔ w = 0)

/-- raise Error records the first error only (stated: R222). With ERR = 0 an error sets ERR and ERRCODE and
nothing else; with ERR = 1 it changes nothing. -/
def Obligations.ErrorRecordIsStickyFirst : Prop :=
  ∀ (code : ErrCode) (s : State),
    (s.err = true → raiseError code s = s) ∧
    (s.err = false → raiseError code s = { s with err := true, errcode := code })

/-- When several checks fail the first in the order E_ILLEGAL, E_BUSY, E_SEQUENCE, E_RANGE, E_OVERFLOW is reported
(stated: R223). An illegal word reports E_ILLEGAL whatever the state; a busy engine reports E_BUSY for every
command but NOP whatever its phase and operands; a wrong phase reports E_SEQUENCE whatever the operands and
LEN; an operand out of range is reported when the phase is legal; E_OVERFLOW is the last, for ABSORB. -/
def Obligations.ChecksInPriorityOrder : Prop :=
  (∀ (w : Word) (why : Illegal) (s : State), decode w = .illegal why → execCmd w s = .next (raiseError .eIllegal s)) ∧
  (∀ (i : Instr) (s : State), s.busy = true → i ≠ .nop → Rejects i s .eBusy) ∧
  (∀ (i : Instr) (s : State), s.busy = false → legalPhase i s.phase = false → Rejects i s .eSequence) ∧
  (∀ (i : Instr) (s : State), s.busy = false → legalPhase i s.phase = true → inRange i s.alg = false →
    Rejects i s .eRange) ∧
  (∀ (b : Byte) (s : State), s.busy = false → s.phase = .absorb → s.len = 0xFFFFFFFFFFFFFFFF →
    Rejects (.absorb b) s .eOverflow) ∧
  (∀ (i : Instr) (s : State) (code : ErrCode), rejection i s = some code →
    code = .eBusy ∨ code = .eSequence ∨ code = .eRange ∨ code = .eOverflow)

/-- An admitted read returns the register at its offset and changes no state (stated: R52). A 32-bit read at a
multiple of 4 below 0x40 appends to what the host has read CMD = 0, STATUS, RESULT, LEN[31:0], LEN[63:32] or 0
for a reserved offset, and changes nothing else. -/
def Obligations.BusReadReturnsRegister : Prop :=
  ∀ (s : State) (rest : List Input) (off : Nat), s.inputs = .busRead 32 off :: rest → off % 4 = 0 → off < 0x40 →
    step s = .next
      { s with
        inputs := rest,
        reads := s.reads ++
          [if off = 0x04 then statusWord s
           else if off = 0x08 then s.result
           else if off = 0x0C then s.len.extractLsb' 0 32
           else if off = 0x10 then s.len.extractLsb' 32 32
           else 0] }

/-- Every field of STATUS reads as R35 lays it out, writes to it are ignored, and it is 0 after reset (stated:
R35). BUSY, ERR, ALG, PHASE, ERRCODE and BUFCNT stand at their bits of STATUS, the reserved bits read 0, a
write to offset 0x04 changes nothing, and the reset value is 0. -/
def Obligations.StatusFields : Prop :=
  (∀ s : State,
    (statusWord s).extractLsb' 0 1 = (if s.busy then 1 else 0) ∧
    (statusWord s).extractLsb' 1 1 = (if s.err then 1 else 0) ∧
    (statusWord s).extractLsb' 2 1 = (match s.alg with | .md5 => 0 | .sha512 => 1) ∧
    (statusWord s).extractLsb' 3 1 = 0 ∧
    (statusWord s).extractLsb' 4 2 = (match s.phase with | .idle => 0 | .absorb => 1 | .final => 2 | .done => 3) ∧
    (statusWord s).extractLsb' 6 2 = 0 ∧
    (statusWord s).extractLsb' 8 4 =
      (match s.errcode with
       | .eNone => 0 | .eIllegal => 1 | .eBusy => 2 | .eSequence => 3 | .eRange => 4 | .eOverflow => 5) ∧
    (statusWord s).extractLsb' 12 4 = 0 ∧
    (statusWord s).extractLsb' 16 8 = s.bufcnt ∧
    (statusWord s).extractLsb' 24 8 = 0) ∧
  (∀ (s : State) (rest : List Input) (v : Word), s.inputs = .busWrite 32 0x04 v :: rest →
    step s = .next { s with inputs := rest }) ∧
  statusWord State.reset = 0

/-- An admitted write runs exec_cmd at CMD and nothing elsewhere (stated: R53). A 32-bit write at offset 0 runs
the command its value encodes; at any other admitted offset it changes nothing. -/
def Obligations.WriteReachesOnlyCmd : Prop :=
  ∀ (s : State) (rest : List Input) (off : Nat) (v : Word), s.inputs = .busWrite 32 off v :: rest → off % 4 = 0 →
    off < 0x40 →
      (off = 0x00 → step s = execCmd v { s with inputs := rest }) ∧
      (off ≠ 0x00 → step s = .next { s with inputs := rest })

/-- An access that is not 32 bits wide, aligned and inside the window is refused; every other one is admitted
(derived: 20_memory.md section 2). A read or write of another width, at an offset that is no multiple of 4 or
not below 0x40, is refused under the name accessNotAdmitted; the other accesses are not refused. The spec
calls the first two refused; that an access at 0x40 or above is refused as well, and the name, are the model's
choice (log 6). -/
def Obligations.OtherAccessesRefused : Prop :=
  (∀ (s : State) (rest : List Input) (bits off : Nat) (v : Word),
    ¬ (bits = 32 ∧ off % 4 = 0 ∧ off < 0x40) →
      (s.inputs = .busRead bits off :: rest → step s = .refused (.accessNotAdmitted bits off)) ∧
      (s.inputs = .busWrite bits off v :: rest → step s = .refused (.accessNotAdmitted bits off))) ∧
  (∀ (s : State) (rest : List Input) (off : Nat) (v : Word) (r : Refusal), off % 4 = 0 → off < 0x40 →
    (s.inputs = .busRead 32 off :: rest → step s ≠ .refused r) ∧
    (s.inputs = .busWrite 32 off v :: rest → step s ≠ .refused r))

/-- RESET sets every element with a reset value in one step, from any state (derived: 70_reset_and_hazards.md
section 1). Whatever BUSY and PHASE are, RESET leaves PHASE = IDLE and BUSY, ALG, RND, NBLK, BUFCNT, LEN, ERR,
ERRCODE and RESULT at 0, so STATUS, RESULT, LEN_LO and LEN_HI read 0. Nothing is said of H, V and BUF, which
the spec leaves unspecified. That the host's coming accesses and what its reads returned stay is the model's
choice (log 9). -/
def Obligations.ResetSetsEveryElement : Prop :=
  ∀ (s : State) (rest : List Input), s.inputs = .reset :: rest →
    ∃ t, step s = .next t ∧ t.phase = .idle ∧ t.busy = false ∧ t.alg = .md5 ∧ t.rnd = 0 ∧ t.nblk = 0 ∧ t.bufcnt = 0 ∧
      t.len = 0 ∧ t.err = false ∧ t.errcode = .eNone ∧ t.result = 0 ∧ t.inputs = rest ∧ t.reads = s.reads ∧
      busReadValue 0x04 t = 0 ∧ busReadValue 0x08 t = 0 ∧ busReadValue 0x0C t = 0 ∧ busReadValue 0x10 t = 0

/-- The reset state has the reset values of R44 (stated: R44). Every element of the reset state that R44 gives a
value has it. H, V and BUF, unspecified there, are not spoken of. -/
def Obligations.ResetStateValues : Prop :=
  State.reset.phase = .idle ∧ State.reset.busy = false ∧ State.reset.alg = .md5 ∧ State.reset.rnd = 0 ∧
  State.reset.nblk = 0 ∧ State.reset.bufcnt = 0 ∧ State.reset.len = 0 ∧ State.reset.err = false ∧
  State.reset.errcode = .eNone ∧ State.reset.result = 0

/-- IV_SHA and K_SHA are the root-of-prime values their defining formulas give (stated: R127). With p the first 80
primes, IV_SHA[i] is the integer square root of p * 2^128 modulo 2^64 for i = 0..7, and K_SHA[t] the integer
cube root of p * 2^192 modulo 2^64 for t = 0..79. -/
def Obligations.ShaTablesMatchRootFormulas : Prop :=
  smallPrimes.length = 80 ∧
  (∀ i, i < 8 → ∃ a, a < 8 ∧
    (a * 2 ^ 64 + (ivSha i).toNat) ^ 2 ≤ smallPrimes.getD i 0 * 2 ^ 128 ∧
    smallPrimes.getD i 0 * 2 ^ 128 < (a * 2 ^ 64 + (ivSha i).toNat + 1) ^ 2) ∧
  (∀ t, t < 80 → ∃ a, a < 8 ∧
    (a * 2 ^ 64 + (kSha t).toNat) ^ 3 ≤ smallPrimes.getD t 0 * 2 ^ 192 ∧
    smallPrimes.getD t 0 * 2 ^ 192 < (a * 2 ^ 64 + (kSha t).toNat + 1) ^ 3)

/-- IV_MD5 and K_MD5 hold the listed words, S_MD5 and IDX_MD5 follow the pattern of each group (stated: R120,
R121, R122, R123). IV_MD5[0..3] are the listed words, with their bytes low first, and INIT of MD5 loads them
into H[0..3] when not busy; K_MD5[0..63] are the listed words. In rounds 0..15, 16..31, 32..47 and 48..63 the
message-word index is t, (5t + 1) mod 16, (3t + 5) mod 16 and 7t mod 16, each group uses every word exactly
once, and the rotation amounts of a group repeat its four values. -/
def Obligations.Md5TablesAsListed : Prop :=
  (∀ i, i < 4 → ivMd5 i = [0x67452301, 0xEFCDAB89, 0x98BADCFE, 0x10325476].getD i 0) ∧
  (List.range 4).map (fun i => leBytes 4 (ivMd5 i).toNat) =
    [[0x01, 0x23, 0x45, 0x67], [0x89, 0xAB, 0xCD, 0xEF], [0xFE, 0xDC, 0xBA, 0x98], [0x76, 0x54, 0x32, 0x10]] ∧
  (∀ s : State, s.busy = false →
    ∃ u, exec (.init .md5) s = .next u ∧ ∀ i, i < 4 → regAt u.h i = (ivMd5 i).setWidth 64) ∧
  (∀ t, t < 64 → kMd5 t =
     ([0xD76AA478, 0xE8C7B756, 0x242070DB, 0xC1BDCEEE, 0xF57C0FAF, 0x4787C62A,
       0xA8304613, 0xFD469501, 0x698098D8, 0x8B44F7AF, 0xFFFF5BB1, 0x895CD7BE,
       0x6B901122, 0xFD987193, 0xA679438E, 0x49B40821] ++
      [0xF61E2562, 0xC040B340, 0x265E5A51, 0xE9B6C7AA, 0xD62F105D, 0x02441453,
       0xD8A1E681, 0xE7D3FBC8, 0x21E1CDE6, 0xC33707D6, 0xF4D50D87, 0x455A14ED,
       0xA9E3E905, 0xFCEFA3F8, 0x676F02D9, 0x8D2A4C8A] ++
      [0xFFFA3942, 0x8771F681, 0x6D9D6122, 0xFDE5380C, 0xA4BEEA44, 0x4BDECFA9,
       0xF6BB4B60, 0xBEBFBC70, 0x289B7EC6, 0xEAA127FA, 0xD4EF3085, 0x04881D05,
       0xD9D4D039, 0xE6DB99E5, 0x1FA27CF8, 0xC4AC5665] ++
      [0xF4292244, 0x432AFF97, 0xAB9423A7, 0xFC93A039, 0x655B59C3, 0x8F0CCC92,
       0xFFEFF47D, 0x85845DD1, 0x6FA87E4F, 0xFE2CE6E0, 0xA3014314, 0x4E0811A1,
       0xF7537E82, 0xBD3AF235, 0x2AD7D2BB, 0xEB86D391]).getD t 0) ∧
  (∀ t, t < 64 → idxMd5 t =
    if t < 16 then t else if t < 32 then (5 * t + 1) % 16 else if t < 48 then (3 * t + 5) % 16 else 7 * t % 16) ∧
  (∀ g, g < 4 → ∀ j, j < 16 → ((List.range 16).filter fun k => idxMd5 (16 * g + k) == j).length = 1) ∧
  (∀ t, t < 64 → sMd5 t =
    (if t < 16 then [7, 12, 17, 22] else if t < 32 then [5, 9, 14, 20] else if t < 48 then [4, 11, 16, 23]
     else [6, 10, 15, 21]).getD (t % 4) 0)

/-- ROTL32 and ROTR64 rotate (derived: 40_primitives.md section 2). For the amounts 1..31 and 1..63 bit i of the
rotated word is bit (i - s) mod 32, and bit (i + n) mod 64, of the operand. -/
def Obligations.RotationsRotate : Prop :=
  (∀ (x : Word) (k i : Nat), 1 ≤ k → k ≤ 31 → i < 32 →
    (rotl32 x k).getLsbD i = x.getLsbD ((i + (32 - k)) % 32)) ∧
  (∀ (x : DWord) (n i : Nat), 1 ≤ n → n ≤ 63 → i < 64 → (rotr64 x n).getLsbD i = x.getLsbD ((i + n) % 64))

/-- The six mixing functions, SHR64 and the four sigmas are their formulas, bit by bit (stated: R94, R96, R97,
R98, R99, R100, R101, R102, R103, R104, R105). MD5_F and CH take y where x is 1 and z elsewhere; MD5_G takes x
where z is 1 and y elsewhere; MD5_H is the parity; MD5_I is y xor (x or not z); MAJ is the majority of the
three bits. SHR64 by 1..63 brings in zeros; BSIG0, BSIG1, SSIG0 and SSIG1 are the parity of the operand's bits
at the distances 28, 34, 39; 14, 18, 41; 1, 8 and 7 (shifted); 19, 61 and 6 (shifted). -/
def Obligations.MixingFunctionsBitByBit : Prop :=
  (∀ (x y z : Word) (i : Nat), i < 32 →
    (md5F x y z).getLsbD i = (if x.getLsbD i then y.getLsbD i else z.getLsbD i) ∧
    (md5G x y z).getLsbD i = (if z.getLsbD i then x.getLsbD i else y.getLsbD i) ∧
    (md5H x y z).getLsbD i = ((x.getLsbD i != y.getLsbD i) != z.getLsbD i) ∧
    (md5I x y z).getLsbD i = (y.getLsbD i != (x.getLsbD i || !z.getLsbD i))) ∧
  (∀ (x y z : DWord) (i : Nat), i < 64 →
    (ch x y z).getLsbD i = (if x.getLsbD i then y.getLsbD i else z.getLsbD i) ∧
    (maj x y z).getLsbD i =
      decide (2 ≤ (x.getLsbD i).toNat + (y.getLsbD i).toNat + (z.getLsbD i).toNat)) ∧
  (∀ (x : DWord) (n i : Nat), 1 ≤ n → n ≤ 63 → i < 64 →
    (shr64 x n).getLsbD i = (if i + n < 64 then x.getLsbD (i + n) else false)) ∧
  (∀ (x : DWord) (i : Nat), i < 64 →
    let rot := fun n => x.getLsbD ((i + n) % 64)
    let shr := fun n => if i + n < 64 then x.getLsbD (i + n) else false
    (bsig0 x).getLsbD i = ((rot 28 != rot 34) != rot 39) ∧ (bsig1 x).getLsbD i = ((rot 14 != rot 18) != rot 41) ∧
    (ssig0 x).getLsbD i = ((rot 1 != rot 8) != shr 7) ∧ (ssig1 x).getLsbD i = ((rot 19 != rot 61) != shr 6))

/-- MD5 message words are little-endian; SHA-512 message words are big-endian (stated: R150, R152). Byte k of X[j]
counted from its low end is the block's byte 4j + k, and byte k of W[t], t < 16, counted from its high end is
the block's byte 8t + k. -/
def Obligations.MessageWordByteOrder : Prop :=
  (∀ (block : List Byte) (j k : Nat), k < 4 → (md5Word block j).extractLsb' (8 * k) 8 = byteAt block (4 * j + k)) ∧
  (∀ (block : List Byte) (t k : Nat), k < 8 →
    (shaMessageWord block t).extractLsb' (56 - 8 * k) 8 = byteAt block (8 * t + k))

/-- The SHA-512 schedule is the sixteen message words and then the recurrence of R153 (stated: R152, R153). W[t]
is the big-endian message word for t in 0..15, and W[t-16] + SSIG0(W[t-15]) + W[t-7] + SSIG1(W[t-2]) modulo
2^64 for every t from 16 to 79. -/
def Obligations.ShaScheduleRecurrence : Prop :=
  ∀ block : List Byte,
    (∀ t, t < 16 → shaWord block t = fromBe64 block (8 * t)) ∧
    (∀ t, 16 ≤ t → t < 80 → shaWord block t =
      shaWord block (t - 16) + ssig0 (shaWord block (t - 15)) + shaWord block (t - 7) + ssig1 (shaWord block (t - 2)))

/-- An engine step with ALG = MD5, BUSY = 1 and RND < 64 is MD5ROUND(RND) (stated: R160, R161). The step writes
V[0..3] with the old d, b + ROTL32(a + f + K + X, S), the old b and the old c, zero-extended, where f is the
mixing function of the round group, leaves V[4..7] alone, adds 1 to RND and changes nothing else. -/
def Obligations.Md5RoundStep : Prop :=
  ∀ s s0 : State, EngineMoves s s0 → s.busy = true → s.alg = .md5 → s.rnd.toNat < 64 →
    let t := s.rnd.toNat
    let a := (regAt s.v 0).extractLsb' 0 32
    let b := (regAt s.v 1).extractLsb' 0 32
    let c := (regAt s.v 2).extractLsb' 0 32
    let d := (regAt s.v 3).extractLsb' 0 32
    let f := if t < 16 then (b &&& c) ||| (~~~b &&& d) else if t < 32 then (b &&& d) ||| (c &&& ~~~d)
      else if t < 48 then b ^^^ c ^^^ d else c ^^^ (b ||| ~~~d)
    let j := 4 * idxMd5 t
    let word : Word := bufByte s.buf (j + 3) ++ bufByte s.buf (j + 2) ++ bufByte s.buf (j + 1) ++ bufByte s.buf j
    ∃ u, step s = .next u ∧ u = { s0 with v := u.v, rnd := s.rnd + 1 } ∧
      regAt u.v 0 = d.setWidth 64 ∧
      regAt u.v 1 = (b + rotl32 (a + f + kMd5 t + word) (sMd5 t)).setWidth 64 ∧
      regAt u.v 2 = b.setWidth 64 ∧ regAt u.v 3 = c.setWidth 64 ∧
      ∀ i, 4 ≤ i → i < 8 → regAt u.v i = regAt s.v i

/-- An engine step with ALG = SHA-512, BUSY = 1 and RND < 80 is SHA512ROUND(RND) (stated: R170, R171). The step
writes V[0..7] with T1 + T2, a, b, c, d + T1, e, f, g, where T1 = h + BSIG1(e) + CH(e, f, g) + K_SHA[t] + W[t]
and T2 = BSIG0(a) + MAJ(a, b, c), adds 1 to RND and changes nothing else. -/
def Obligations.Sha512RoundStep : Prop :=
  ∀ s s0 : State, EngineMoves s s0 → s.busy = true → s.alg = .sha512 → s.rnd.toNat < 80 →
    let t := s.rnd.toNat
    let r := fun i => regAt s.v i
    let t1 := r 7 + bsig1 (r 4) + ch (r 4) (r 5) (r 6) + kSha t + shaWord ((List.range 128).map (bufByte s.buf)) t
    let t2 := bsig0 (r 0) + maj (r 0) (r 1) (r 2)
    ∃ u, step s = .next u ∧ u = { s0 with v := u.v, rnd := s.rnd + 1 } ∧
      regAt u.v 0 = t1 + t2 ∧ regAt u.v 1 = r 0 ∧ regAt u.v 2 = r 1 ∧ regAt u.v 3 = r 2 ∧
      regAt u.v 4 = r 3 + t1 ∧ regAt u.v 5 = r 4 ∧ regAt u.v 6 = r 5 ∧ regAt u.v 7 = r 6

/-- An engine step with ALG = MD5 and RND = 64 is the feed-forward and complete_block() (stated: R163, R211,
R137). H[0..3] take the 32-bit sums of H and V, H[4..7] stay; then the second padding block is started when
PHASE = FINAL and NBLK = 2, and otherwise BUSY and BUFCNT become 0 and a FINAL ends in DONE with NBLK = 0. -/
def Obligations.Md5FeedForward : Prop :=
  ∀ s s0 : State, EngineMoves s s0 → s.busy = true → s.alg = .md5 → s.rnd.toNat = 64 →
    ∃ u, step s = .next u ∧ CompletesBlock s0 u ∧
      (∀ i, i < 4 → regAt u.h i =
        ((regAt s.h i).extractLsb' 0 32 + (regAt s.v i).extractLsb' 0 32 : Word).setWidth 64) ∧
      (∀ i, 4 ≤ i → i < 8 → regAt u.h i = regAt s.h i)

/-- An engine step with ALG = SHA-512 and RND = 80 is the feed-forward and complete_block() (stated: R173, R211,
R137). Every H[i] takes the 64-bit sum of H[i] and V[i]; then the block is completed as for MD5. -/
def Obligations.Sha512FeedForward : Prop :=
  ∀ s s0 : State, EngineMoves s s0 → s.busy = true → s.alg = .sha512 → s.rnd.toNat = 80 →
    ∃ u, step s = .next u ∧ CompletesBlock s0 u ∧ ∀ i, i < 8 → regAt u.h i = regAt s.h i + regAt s.v i

/-- While BUSY = 0 the engine's turn changes nothing (derived: 47_control.md section 3, 60_exceptions.md section
4). A turn of the engine with BUSY = 0 leaves every piece of state as it is. That such a turn is a step of its
own is the model's choice (log 3). -/
def Obligations.EngineHasNoStepWithoutBusy : Prop :=
  ∀ s s0 : State, EngineMoves s s0 → s.busy = false → step s = .next s0

/-- BUF does not change while the rounds of a block run (derived: 20_memory.md section 6). From a busy state no
step changes BUF, a host access included, but RESET and the engine's own move when it is the feed-forward that
builds the second padding block. -/
def Obligations.BufStableDuringCompression : Prop :=
  ∀ s t : State, s.busy = true → step s = .next t → s.inputs.head? ≠ some .reset →
    ¬ ((∃ s0, EngineMoves s s0) ∧ rounds s.alg ≤ s.rnd.toNat ∧ s.phase = .final ∧ s.nblk = 2) → t.buf = s.buf

/-- The 65 engine steps of an MD5 block compute md5_compress (derived: 44_md5_compression.md (md5_compress),
47_control.md section 3). From start_block() with ALG = MD5 and no input in the way: for 64 steps the engine
is busy, counts RND and keeps H; after exactly 65 steps H[0..3] is md5_compress of the old H[0..3] and
BUF[0..63], H[4..7] are unchanged and the block is completed. That the engine, left alone, has every step is
the model's choice (log 14), and that its turns are the steps counted (log 3). -/
def Obligations.BlockRunIsMd5Compress : Prop :=
  ∀ s : State, s.alg = .md5 → s.inputs = [] →
    (∀ k, k ≤ 64 → ∃ u, runSteps k (startBlock s) = .next u ∧ u.busy = true ∧ u.rnd.toNat = k ∧ u.h = s.h ∧
      u.buf = s.buf) ∧
    ∃ t, runSteps 65 (startBlock s) = .next t ∧ loadMd5 t.h = md5Compress (loadMd5 s.h) (blockOf .md5 s.buf) ∧
      (∀ i, i < 4 → (regAt t.h i).toNat < 2 ^ 32) ∧ (∀ i, 4 ≤ i → i < 8 → regAt t.h i = regAt s.h i) ∧
      ∃ u, runSteps 64 (startBlock s) = .next u ∧ CompletesBlock u t

/-- The 81 engine steps of a SHA-512 block compute sha512_compress (derived: 45_sha512_compression.md
(sha512_compress), 47_control.md section 3). From start_block() with ALG = SHA-512 and no input in the way:
for 80 steps the engine is busy, counts RND and keeps H; after exactly 81 steps H is sha512_compress of the
old H and BUF[0..127], and the block is completed. That the engine, left alone, has every step is the model's
choice (log 14), and that its turns are the steps counted (log 3). -/
def Obligations.BlockRunIsSha512Compress : Prop :=
  ∀ s : State, s.alg = .sha512 → s.inputs = [] →
    (∀ k, k ≤ 80 → ∃ u, runSteps k (startBlock s) = .next u ∧ u.busy = true ∧ u.rnd.toNat = k ∧ u.h = s.h ∧
      u.buf = s.buf) ∧
    ∃ t, runSteps 81 (startBlock s) = .next t ∧
      loadSha t.h = sha512Compress (loadSha s.h) (blockOf .sha512 s.buf) ∧
      ∃ u, runSteps 80 (startBlock s) = .next u ∧ CompletesBlock u t

/-- The padded message is whole blocks, message first, then 0x80, zeros and the length field at the very end
(derived: 42_preprocessor.md section 1). For every message: the padded length is N * BS, z < BS, byte L is
0x80, the bytes from L + 1 up to the last LF are zero, the last LF are the length field, and N is floor(L /
BS) + 1 or + 2 as the length field fits in the tail block or not. -/
def Obligations.PaddedMessageShape : Prop :=
  ∀ (alg : Alg) (m : List Byte),
    (pad alg m).length = blockCount alg m.length * blockSize alg ∧
    zeroFill alg m.length < blockSize alg ∧
    (pad alg m).take m.length = m ∧
    (pad alg m)[m.length]? = some 0x80 ∧
    (∀ k, m.length < k → k < blockCount alg m.length * blockSize alg - lenFieldSize alg →
      (pad alg m)[k]? = some 0x00) ∧
    (pad alg m).drop (blockCount alg m.length * blockSize alg - lenFieldSize alg) = lenField alg m.length ∧
    blockCount alg m.length =
      (if m.length % blockSize alg ≤ blockSize alg - lenFieldSize alg - 1 then m.length / blockSize alg + 1
       else m.length / blockSize alg + 2)

/-- The length field is 8 * L, 64 bits little-endian modulo 2^64 for MD5, 128 bits big-endian for SHA-512
(derived: 42_preprocessor.md section 1). Byte k of the MD5 field is bits [8k+7:8k] of 8L mod 2^64; byte k of
the SHA-512 field is bits [8(15-k)+7:8(15-k)] of 8L mod 2^128, and for L < 2^64 its bytes 0..6 are zero and
byte 7 holds only bits [66:64]. R132 also calls byte 7 always zero, against its own formula and its bits
[66:64]; that the formula holds is the model's inference (log 18). -/
def Obligations.LengthFieldBytes : Prop :=
  ∀ len : Nat,
    (lenField .md5 len).length = 8 ∧ (lenField .sha512 len).length = 16 ∧
    (∀ k, k < 8 → (byteAt (lenField .md5 len) k).toNat = 8 * len % 2 ^ 64 / 2 ^ (8 * k) % 256) ∧
    (∀ k, k < 16 → (byteAt (lenField .sha512 len) k).toNat = 8 * len % 2 ^ 128 / 2 ^ (8 * (15 - k)) % 256) ∧
    (len < 2 ^ 64 → (∀ k, k < 7 → byteAt (lenField .sha512 len) k = 0) ∧
      (byteAt (lenField .sha512 len) 7).toNat = 8 * len / 2 ^ 64)

/-- Digest bytes are H word by word, MD5 little-endian, SHA-512 big-endian (stated: R180, R181). D has 16 or 64
bytes; for MD5 D[4i + k] = H[i][8k+7:8k], for SHA-512 D[8i + k] = H[i][63-8k:56-8k]. -/
def Obligations.DigestByteOrder : Prop :=
  ∀ h : Vector DWord 8,
    (digestBytes .md5 h).length = 16 ∧ (digestBytes .sha512 h).length = 64 ∧
    (∀ i k, i < 4 → k < 4 → byteAt (digestBytes .md5 h) (4 * i + k) = (regAt h i).extractLsb' (8 * k) 8) ∧
    (∀ i k, i < 8 → k < 8 → byteAt (digestBytes .sha512 h) (8 * i + k) = (regAt h i).extractLsb' (56 - 8 * k) 8)

/-- The hex text and the base64 text of any bytes decode to those bytes (derived: 46_digest.md section 3).
Decoding the lowercase hex text of any byte sequence gives it back, and so does decoding its padded base64
text; so the output format does not change the digest. -/
def Obligations.TextsDecodeToTheDigest : Prop :=
  ∀ d : List Byte, hexDecode (hexText d) = some d ∧ b64Decode (b64Text d) = some d

/-- Hex characters are 0-9 a-f, base64 characters are of the alphabet, and the digest's base64 text ends in ==
(derived: 46_digest.md sections 1 and 2). Every hex character is in 0x30..0x39 or 0x61..0x66; every base64
character is 0x3D or one of the 64 codes of ALPHABET (A-Z, a-z, 0-9, +, /); for a digest of 16 or 64 bytes the
last two base64 characters, and only they, are 0x3D. -/
def Obligations.TextCharactersInAlphabet : Prop :=
  (∀ (d : List Byte) (i : Nat),
    (0x30 ≤ (hexChar d i).toNat ∧ (hexChar d i).toNat ≤ 0x39) ∨
      (0x61 ≤ (hexChar d i).toNat ∧ (hexChar d i).toNat ≤ 0x66)) ∧
  (∀ (d : List Byte) (i : Nat), b64Char d i = 0x3D ∨
    (0x41 ≤ (b64Char d i).toNat ∧ (b64Char d i).toNat ≤ 0x5A) ∨
    (0x61 ≤ (b64Char d i).toNat ∧ (b64Char d i).toNat ≤ 0x7A) ∨
    (0x30 ≤ (b64Char d i).toNat ∧ (b64Char d i).toNat ≤ 0x39) ∨ b64Char d i = 0x2B ∨ b64Char d i = 0x2F) ∧
  (∀ (alg : Alg) (d : List Byte) (i : Nat), d.length = digestLen alg → i < b64Len alg →
    (b64Char d i = 0x3D ↔ b64Len alg - 2 ≤ i))

/-- NOP is accepted in every state and changes none; while BUSY = 1 it is the only command accepted (stated:
R200). NOP answers the same state, ERR included, busy or not and in every phase; while BUSY = 1 every other
command is rejected with E_BUSY; every other word with its opcode is E_ILLEGAL. -/
def Obligations.NopChangesNothing : Prop :=
  (∀ s : State, exec .nop s = .next s) ∧
  (∀ (i : Instr) (s : State), s.busy = true → i ≠ .nop → Rejects i s .eBusy) ∧
  RejectsIllegalForms 0x00 0

/-- INIT loads the IV and starts a message in every phase while not busy (stated: R201). Not busy, INIT sets ALG,
H to the IV (zero-extended, H[4..7] = 0 for MD5), LEN, BUFCNT, NBLK and RESULT to 0 and PHASE to ABSORB, and
changes nothing else; busy, it is E_BUSY; a word with a bit of [23:1] set is E_ILLEGAL. -/
def Obligations.InitBeginsDigest : Prop :=
  (∀ (alg : Alg) (s : State), s.busy = true → Rejects (.init alg) s .eBusy) ∧
  (∀ (alg : Alg) (s : State), s.busy = false →
    ∃ t, exec (.init alg) s = .next t ∧
      t = { s with
        alg := alg, h := t.h, len := 0, bufcnt := 0, nblk := 0, result := 0, phase := .absorb } ∧
      (alg = .md5 → ∀ i, i < 8 → regAt t.h i = if i < 4 then (ivMd5 i).setWidth 64 else 0) ∧
      (alg = .sha512 → ∀ i, i < 8 → regAt t.h i = ivSha i)) ∧
  RejectsIllegalForms 0x01 1

/-- CLRERR clears ERR and ERRCODE in every phase while not busy (stated: R202). Not busy, CLRERR sets ERR and
ERRCODE to 0 and changes nothing else; busy, it is E_BUSY; every other word with its opcode is E_ILLEGAL. -/
def Obligations.ClrerrClearsErrorRecord : Prop :=
  (∀ s : State, s.busy = true → Rejects .clrerr s .eBusy) ∧
  (∀ s : State, s.busy = false → exec .clrerr s = .next { s with err := false, errcode := .eNone }) ∧
  RejectsIllegalForms 0x08 0

/-- ABSORB stores its byte, counts it, and starts the block it completes (stated: R135). In ABSORB, not busy and
with LEN below 2^64 - 1, the byte goes to BUF[BUFCNT], BUFCNT and LEN grow by one, and when BUFCNT becomes BS
the block starts (V = H, RND = 0, BUSY = 1); nothing else changes. Busy, in another phase, or at LEN = 2^64 -
1 it is rejected. -/
def Obligations.AbsorbTakesByte : Prop :=
  (∀ (b : Byte) (s : State), s.busy = true → Rejects (.absorb b) s .eBusy) ∧
  (∀ (b : Byte) (s : State), s.busy = false → s.phase ≠ .absorb → Rejects (.absorb b) s .eSequence) ∧
  (∀ (b : Byte) (s : State), s.busy = false → s.phase = .absorb → s.len = 0xFFFFFFFFFFFFFFFF →
    Rejects (.absorb b) s .eOverflow) ∧
  (∀ (b : Byte) (s : State), s.busy = false → s.phase = .absorb → s.len ≠ 0xFFFFFFFFFFFFFFFF →
    s.bufcnt.toNat < 128 →
      ∃ t, exec (.absorb b) s = .next t ∧
        (∀ k, k < 128 → bufByte t.buf k = if k = s.bufcnt.toNat then b else bufByte s.buf k) ∧
        t.bufcnt.toNat = s.bufcnt.toNat + 1 ∧ t.len.toNat = s.len.toNat + 1 ∧
        (if s.bufcnt.toNat + 1 = blockSize s.alg then t.busy = true ∧ t.v = s.h ∧ t.rnd = 0
         else t.busy = false ∧ t.v = s.v ∧ t.rnd = s.rnd) ∧
        t = { s with buf := t.buf, bufcnt := t.bufcnt, len := t.len, busy := t.busy, v := t.v, rnd := t.rnd }) ∧
  RejectsIllegalForms 0x02 8

/-- A command that passes its checks with BUFCNT above 127 stops with the buffer-index fault (the model's choice)
(derived: 10_state.md section 3, 42_preprocessor.md section 2). ABSORB and FINAL that would write BUF[128] or
beyond, a byte BUF does not have, fault by name; no other command faults. The spec gives no effect there and
no run reaches it: the stop is the model's choice (log 5). -/
def Obligations.BufferIndexFault : Prop :=
  (∀ (b : Byte) (s : State), s.busy = false → s.phase = .absorb → s.len ≠ 0xFFFFFFFFFFFFFFFF →
    128 ≤ s.bufcnt.toNat → exec (.absorb b) s = .fault .bufIndexBeyondBuffer) ∧
  (∀ s : State, s.busy = false → s.phase = .absorb → 128 ≤ s.bufcnt.toNat →
    exec .final s = .fault .bufIndexBeyondBuffer) ∧
  (∀ (i : Instr) (s : State) (f : Fault), exec i s = .fault f →
    128 ≤ s.bufcnt.toNat ∧ ((∃ b, i = .absorb b) ∨ i = .final))

/-- FINAL pads the block, counts the padding blocks and starts compressing (stated: R136). In ABSORB, not busy,
with n = BUFCNT < BS (R43): BUF[n] = 0x80, the bytes up to BS-1 are zero but for the length field in the last
LF when n <= BS - LF - 1, NBLK is 1 or 2 accordingly, PHASE = FINAL and the block starts; BUFCNT, LEN and all
else are unchanged. Busy or in another phase it is rejected. -/
def Obligations.FinalPadsAndStarts : Prop :=
  (∀ s : State, s.busy = true → Rejects .final s .eBusy) ∧
  (∀ s : State, s.busy = false → s.phase ≠ .absorb → Rejects .final s .eSequence) ∧
  (∀ s : State, s.busy = false → s.phase = .absorb → s.bufcnt.toNat < blockSize s.alg →
    ∃ t, exec .final s = .next t ∧
      t = { s with buf := t.buf, phase := .final, nblk := t.nblk, busy := true, v := s.h, rnd := 0 } ∧
      t.nblk = (if s.bufcnt.toNat ≤ blockSize s.alg - lenFieldSize s.alg - 1 then 1 else 2) ∧
      ∀ k, k < 128 → bufByte t.buf k =
        if k = s.bufcnt.toNat then 0x80
        else if k < s.bufcnt.toNat ∨ blockSize s.alg ≤ k then bufByte s.buf k
        else if s.bufcnt.toNat ≤ blockSize s.alg - lenFieldSize s.alg - 1 ∧ blockSize s.alg - lenFieldSize s.alg ≤ k then
          byteAt (lenField s.alg s.len.toNat) (k - (blockSize s.alg - lenFieldSize s.alg))
        else 0x00) ∧
  RejectsIllegalForms 0x03 0

/-- RDBYTE puts digest byte IDX in RESULT, for every IDX below the digest length (stated: R185). In DONE, not
busy, RDBYTE IDX writes RESULT with the digest byte, MD5 word-wise little-endian, SHA-512 big-endian, and
nothing else; busy, in another phase or with IDX out of range it is rejected. -/
def Obligations.RdbyteReadsDigestByte : Prop :=
  (∀ (idx : Nat) (s : State), s.busy = true → Rejects (.rdbyte idx) s .eBusy) ∧
  (∀ (idx : Nat) (s : State), s.busy = false → s.phase ≠ .done → Rejects (.rdbyte idx) s .eSequence) ∧
  (∀ (idx : Nat) (s : State), s.busy = false → s.phase = .done →
    (s.alg = .md5 → 16 ≤ idx → Rejects (.rdbyte idx) s .eRange) ∧
    (s.alg = .sha512 → 64 ≤ idx → Rejects (.rdbyte idx) s .eRange) ∧
    (s.alg = .md5 → idx < 16 → exec (.rdbyte idx) s =
      .next { s with result := ((regAt s.h (idx / 4)).extractLsb' (8 * (idx % 4)) 8).setWidth 32 }) ∧
    (s.alg = .sha512 → idx < 64 → exec (.rdbyte idx) s =
      .next { s with result := ((regAt s.h (idx / 8)).extractLsb' (56 - 8 * (idx % 8)) 8).setWidth 32 })) ∧
  RejectsIllegalForms 0x04 8

/-- RDHEX puts the lowercase hex character IDX of the digest in RESULT (stated: R186). In DONE, not busy, with IDX
below 32 (MD5) or 128 (SHA-512), RESULT takes the ASCII code of the high (IDX even) or low (IDX odd) nibble of
digest byte IDX div 2, and nothing else changes; otherwise the command is rejected. -/
def Obligations.RdhexReadsHexDigit : Prop :=
  (∀ (idx : Nat) (s : State), s.busy = true → Rejects (.rdhex idx) s .eBusy) ∧
  (∀ (idx : Nat) (s : State), s.busy = false → s.phase ≠ .done → Rejects (.rdhex idx) s .eSequence) ∧
  (∀ (idx : Nat) (s : State), s.busy = false → s.phase = .done →
    (s.alg = .md5 → 32 ≤ idx → Rejects (.rdhex idx) s .eRange) ∧
    (s.alg = .sha512 → 128 ≤ idx → Rejects (.rdhex idx) s .eRange) ∧
    (idx < (match s.alg with | .md5 => 32 | .sha512 => 128) →
      let byte := (byteAt (digestBytes s.alg s.h) (idx / 2)).toNat
      let nibble := if idx % 2 = 0 then byte / 16 else byte % 16
      exec (.rdhex idx) s =
        .next { s with result := BitVec.ofNat 32 (if nibble < 10 then 0x30 + nibble else 0x61 + (nibble - 10)) })) ∧
  RejectsIllegalForms 0x05 8

/-- RDB64 puts base64 character IDX of the digest in RESULT (stated: R187). In DONE, not busy, with IDX below 24
(MD5) or 88 (SHA-512), RESULT takes character IDX of the padded base64 text of the digest, and nothing else
changes; otherwise the command is rejected. -/
def Obligations.Rdb64ReadsBase64Character : Prop :=
  (∀ (idx : Nat) (s : State), s.busy = true → Rejects (.rdb64 idx) s .eBusy) ∧
  (∀ (idx : Nat) (s : State), s.busy = false → s.phase ≠ .done → Rejects (.rdb64 idx) s .eSequence) ∧
  (∀ (idx : Nat) (s : State), s.busy = false → s.phase = .done →
    (s.alg = .md5 → 24 ≤ idx → Rejects (.rdb64 idx) s .eRange) ∧
    (s.alg = .sha512 → 88 ≤ idx → Rejects (.rdb64 idx) s .eRange) ∧
    (idx < (match s.alg with | .md5 => 24 | .sha512 => 88) →
      exec (.rdb64 idx) s =
        .next { s with result := (byteAt (b64Text (digestBytes s.alg s.h)) idx).setWidth 32 })) ∧
  RejectsIllegalForms 0x06 8

/-- RDCHAIN puts a half of H[J] in RESULT, in ABSORB and in DONE (stated: R188). Not busy, in ABSORB or DONE, with
J below 4 and the low half for MD5, or J below 8 and either half for SHA-512, RESULT takes H[J][31:0] or
H[J][63:32] and nothing else changes; otherwise the command is rejected. -/
def Obligations.RdchainReadsChainingWord : Prop :=
  (∀ (j : Nat) (half : Half) (s : State), s.busy = true → Rejects (.rdchain j half) s .eBusy) ∧
  (∀ (j : Nat) (half : Half) (s : State), s.busy = false → s.phase ≠ .absorb → s.phase ≠ .done →
    Rejects (.rdchain j half) s .eSequence) ∧
  (∀ (j : Nat) (half : Half) (s : State), s.busy = false → s.phase = .absorb ∨ s.phase = .done →
    (s.alg = .md5 → 4 ≤ j ∨ half = .hi → Rejects (.rdchain j half) s .eRange) ∧
    (s.alg = .sha512 → 8 ≤ j → Rejects (.rdchain j half) s .eRange) ∧
    ((s.alg = .md5 ∧ j < 4 ∧ half = .lo) ∨ (s.alg = .sha512 ∧ j < 8) →
      exec (.rdchain j half) s =
        .next { s with
          result := match half with
            | .lo => (regAt s.h j).extractLsb' 0 32
            | .hi => (regAt s.h j).extractLsb' 32 32 })) ∧
  RejectsIllegalForms 0x07 5

/-- What each command leaves unchanged, accepted or rejected (derived: 46_digest.md section 2, 47_control.md
section 1, 42_preprocessor.md section 2, 60_exceptions.md section 1). Whenever a command answers a next state:
NOP changes nothing; CLRERR only the error record; the read-outs only RESULT and the error record; INIT only
ALG, H, LEN, BUFCNT, NBLK, RESULT, PHASE and the error record; ABSORB only BUF[BUFCNT], BUFCNT, LEN, the start
of a block and the error record; FINAL only BUF from BUFCNT up to BS-1, PHASE, NBLK, the start of a block and
the error record. -/
def Obligations.CommandFrames : Prop :=
  ∀ s t : State,
    (exec .nop s = .next t → t = s) ∧
    (exec .clrerr s = .next t → t = { s with err := t.err, errcode := t.errcode }) ∧
    (∀ i : Instr, (∃ idx, i = .rdbyte idx ∨ i = .rdhex idx ∨ i = .rdb64 idx) ∨ (∃ j half, i = .rdchain j half) →
      exec i s = .next t → t = { s with result := t.result, err := t.err, errcode := t.errcode }) ∧
    (∀ alg, exec (.init alg) s = .next t →
      t = { s with alg := t.alg, h := t.h, len := t.len, bufcnt := t.bufcnt, nblk := t.nblk, result := t.result,
                   phase := t.phase, err := t.err, errcode := t.errcode }) ∧
    (∀ b, exec (.absorb b) s = .next t →
      t = { s with buf := t.buf, bufcnt := t.bufcnt, len := t.len, v := t.v, rnd := t.rnd, busy := t.busy,
                   err := t.err, errcode := t.errcode } ∧
      ∀ k, k ≠ s.bufcnt.toNat → bufByte t.buf k = bufByte s.buf k) ∧
    (exec .final s = .next t →
      t = { s with buf := t.buf, phase := t.phase, nblk := t.nblk, v := t.v, rnd := t.rnd, busy := t.busy,
                   err := t.err, errcode := t.errcode } ∧
      ∀ k, k < s.bufcnt.toNat ∨ (blockSize s.alg ≤ k ∧ k ≠ s.bufcnt.toNat) → bufByte t.buf k = bufByte s.buf k)

/-- ALG changes only by INIT and RESET (derived: 10_state.md section 3). A step that changes ALG is an accepted
INIT, which sets it to its operand, or RESET, which sets it to MD5. -/
def Obligations.AlgWriters : Prop :=
  ∀ s t : State, step s = .next t → t.alg ≠ s.alg →
    (∃ alg, nextCommand s = some (.init alg) ∧ s.busy = false ∧ t.alg = alg) ∨
    (s.inputs.head? = some .reset ∧ t.alg = .md5)

/-- PHASE moves only as the spec lists (derived: 10_state.md section 3). A step that changes PHASE is RESET to
IDLE, an accepted INIT to ABSORB, an accepted FINAL from ABSORB to FINAL, or the last feed-forward of a FINAL
from FINAL to DONE. -/
def Obligations.PhaseTransitions : Prop :=
  ∀ s t : State, step s = .next t → t.phase ≠ s.phase →
    (s.inputs.head? = some .reset ∧ t.phase = .idle) ∨
    (∃ alg, nextCommand s = some (.init alg) ∧ s.busy = false ∧ t.phase = .absorb) ∨
    (nextCommand s = some .final ∧ s.busy = false ∧ s.phase = .absorb ∧ t.phase = .final) ∨
    ((∃ s0, EngineMoves s s0) ∧ s.busy = true ∧ rounds s.alg ≤ s.rnd.toNat ∧ s.phase = .final ∧ s.nblk ≠ 2 ∧
      t.phase = .done)

/-- BUSY is set only by a block-completing ABSORB and by FINAL, and cleared only by a last feed-forward and RESET
(derived: 10_state.md section 3, 70_reset_and_hazards.md section 3). A step that sets BUSY is an ABSORB that
raises BUFCNT to BS or a FINAL, accepted in ABSORB; a step that clears it is a feed-forward that starts no
second padding block, or RESET. -/
def Obligations.BusyTransitions : Prop :=
  ∀ s t : State, step s = .next t →
    (s.busy = false → t.busy = true →
      s.phase = .absorb ∧
        ((∃ b, nextCommand s = some (.absorb b) ∧ s.bufcnt.toNat + 1 = blockSize s.alg) ∨
          nextCommand s = some .final)) ∧
    (s.busy = true → t.busy = false →
      s.inputs.head? = some .reset ∨
        ((∃ s0, EngineMoves s s0) ∧ rounds s.alg ≤ s.rnd.toNat ∧ ¬ (s.phase = .final ∧ s.nblk = 2)))

/-- H changes only by INIT, by the feed-forward of a block, and by RESET (derived: 10_state.md section 2). A step
that changes H is an accepted INIT, an engine step of a busy engine with RND at R, or RESET, after which H is
unspecified. -/
def Obligations.ChainingRegisterWriters : Prop :=
  ∀ s t : State, step s = .next t → t.h ≠ s.h →
    (∃ alg, nextCommand s = some (.init alg) ∧ s.busy = false) ∨
    ((∃ s0, EngineMoves s s0) ∧ s.busy = true ∧ rounds s.alg ≤ s.rnd.toNat) ∨
    s.inputs.head? = some .reset

/-- ERR and ERRCODE hold the first rejected command's code until CLRERR or RESET (stated: R32). With ERR = 1 a
step leaves ERR and ERRCODE alone unless it is an accepted CLRERR or RESET, which clear both. With ERR = 0 a
step sets ERR exactly when it is a CMD write of an illegal word or of a command that fails a check, and
records E_ILLEGAL or the code of that check. -/
def Obligations.ErrorRecordWriters : Prop :=
  ∀ s t : State, step s = .next t →
    (s.err = true →
      if (nextCommand s = some .clrerr ∧ s.busy = false) ∨ s.inputs.head? = some .reset then
        t.err = false ∧ t.errcode = .eNone
      else t.err = true ∧ t.errcode = s.errcode) ∧
    (s.err = false →
      (t.err = true ↔ ∃ w rest, s.inputs = .busWrite 32 0x00 w :: rest ∧
        ((∃ why, decode w = .illegal why) ∨ ∃ i code, decode w = .command i ∧ rejection i s = some code)) ∧
      ∀ w rest, s.inputs = .busWrite 32 0x00 w :: rest →
        (∀ why, decode w = .illegal why → t.errcode = .eIllegal) ∧
        ∀ i code, decode w = .command i → rejection i s = some code → t.errcode = code)

/-- RESULT changes only by an accepted read-out, INIT and RESET (derived: 10_state.md section 3). A step that
changes RESULT is an accepted RDBYTE, RDHEX, RDB64 or RDCHAIN, or an INIT or RESET, which set it to 0; a
rejected command leaves it. -/
def Obligations.ResultWriters : Prop :=
  ∀ s t : State, step s = .next t → t.result ≠ s.result →
    (s.busy = false ∧ ∃ i, nextCommand s = some i ∧ rejection i s = none ∧
      ((∃ idx, i = .rdbyte idx ∨ i = .rdhex idx ∨ i = .rdb64 idx) ∨ (∃ j half, i = .rdchain j half) ∨
        ((∃ alg, i = .init alg) ∧ t.result = 0))) ∨
    (s.inputs.head? = some .reset ∧ t.result = 0)

/-- LEN counts accepted ABSORBs, is cleared by INIT and RESET, and never wraps (derived: 10_state.md section 3,
42_preprocessor.md section 2). A step that changes LEN is an accepted ABSORB, after which the natural number
LEN has grown by exactly one, or an INIT or RESET, after which it is 0. -/
def Obligations.LengthCounterWriters : Prop :=
  ∀ s t : State, step s = .next t → t.len ≠ s.len →
    (∃ b, nextCommand s = some (.absorb b) ∧ s.busy = false ∧ s.phase = .absorb ∧
      t.len.toNat = s.len.toNat + 1) ∨
    (t.len = 0 ∧ ((∃ alg, nextCommand s = some (.init alg) ∧ s.busy = false) ∨ s.inputs.head? = some .reset))

/-- The invariant of reachable states holds at reset (derived: 10_state.md sections 6 and 7). State.reset meets
the invariant. -/
def Obligations.InvariantAtReset : Prop :=
  State.reset.Inv

/-- Every step keeps the invariant of reachable states (derived: 10_state.md section 6). From every state that
meets the eight items the spec lists (phases against BUSY, BUFCNT, LEN mod BS, NBLK, RND, the MD5 widths) and
the error record's consistency, every step that answers a next state gives one that meets them. -/
def Obligations.InvariantKeptByEveryStep : Prop :=
  ∀ s t : State, s.Inv → step s = .next t → t.Inv

/-- What the spec leaves unspecified is never read: states that differ only there step alike (derived: 10_state.md
section 7, 93_implementation_defined.md part 1 (U1, U2)). From a state of the invariant and another that
differs from it only in H before INIT, in V and RND while not busy, or in BUF bytes no later rule reads, a
step gives two states that again differ only there, with the same values read by the host; a stop is the same
stop. -/
def Obligations.UnspecifiedStateNeverRead : Prop :=
  ∀ s t : State, s.Inv → SameLive s t →
    (∀ s', step s = .next s' → ∃ t', step t = .next t' ∧ SameLive s' t') ∧
    (∀ f, step s = .fault f → step t = .fault f) ∧
    (∀ r, step s = .refused r → step t = .refused r)

/-- The command sequence of a digest ends in DONE with the digest of the whole message in H (derived:
42_preprocessor.md section 3, 46_digest.md section 1). From any state that is not busy, run INIT, one ABSORB a
byte, and FINAL, with any harmless inputs between them (reads, NOPs, RDCHAIN, CLRERR, read-outs, illegal
words, writes to other registers) and enough engine turns for every wait. The run goes on to the end, PHASE =
DONE, BUSY = 0, LEN is the message length, and the digest bytes of H are digestMD5 or digestSHA512 of the
message. -/
def Obligations.DigestScriptComputesDigest : Prop :=
  ∀ (alg : Alg) (m : GappedMessage) (first last : List Input) (s : State),
    s.busy = false → m.length < 2 ^ 64 → gapsOk harmless alg first m last →
      ∃ t, runSteps (digestScript alg first m last).length { s with inputs := digestScript alg first m last } = .next t ∧
        t.inputs = [] ∧ t.phase = .done ∧ t.busy = false ∧ t.alg = alg ∧ t.len.toNat = m.length ∧
        digestBytes t.alg t.h = digest alg (m.map Prod.fst)

/-- A digest run whose host waits as it must records no error (derived: 70_reset_and_hazards.md section 3,
42_preprocessor.md section 3). The same run with only engine turns, reads, NOPs and writes to other registers
in its gaps ends with ERR and ERRCODE as they were and RESULT = 0: no command of the sequence was rejected. -/
def Obligations.SilentScriptRecordsNoError : Prop :=
  ∀ (alg : Alg) (m : GappedMessage) (first last : List Input) (s : State),
    s.busy = false → m.length < 2 ^ 64 → gapsOk silent alg first m last →
      ∃ t, runSteps (digestScript alg first m last).length { s with inputs := digestScript alg first m last } = .next t ∧
        t.phase = .done ∧ t.err = s.err ∧ t.errcode = s.errcode ∧ t.result = 0

/-- Under the invariant a step never faults, and is refused only for an access that is not admitted (derived:
60_exceptions.md section 1, 20_memory.md section 2). Commands that pass every check complete and engine steps
never fail: from every state of the invariant the step answers a next state, unless the next input is an
access that is not admitted, which is refused. That an access at 0x40 or above is one of these is the model's
choice (log 6). -/
def Obligations.NoFaultFromReachableStates : Prop :=
  ∀ s : State, s.Inv →
    (∀ f, step s ≠ .fault f) ∧
    ((∃ r, step s = .refused r) ↔
      ∃ bits off rest, admitted bits off = false ∧
        (s.inputs = .busRead bits off :: rest ∨ ∃ v, s.inputs = .busWrite bits off v :: rest))

/-- Left alone, a busy engine is idle after at most 2(R + 1) of its turns (its fairness is the model's, log 14),
and a host's wait ends just when it is (derived: 47_control.md section 3, 30_encoding.md section 5). With no
input left every step is an engine turn (log 3). From every busy state of the invariant with no input left,
BUSY is 0 after some number of engine turns up to 2(R + 1). From an accepted FINAL, BUSY is 1 before and 0
after exactly R + 1 engine turns when the length field fits and 2(R + 1) when it does not. That the engine
always gets its turn is the model's choice (log 14), an assumption of the spec: a chip that hangs would not
meet this. A host at a wait reads STATUS and repeats it exactly while BUSY = 1, whatever follows in its
program; in a run, whatever its moves (log 13), a wait that has ended leaves BUSY = 0, and the first read
after 2(R + 1) engine moves, if not an earlier one, ends it. -/
def Obligations.CompressionEnds : Prop :=
  (∀ s : State, s.Inv → s.busy = true → s.inputs = [] →
    ∃ n t, n ≤ 2 * (rounds s.alg + 1) ∧ runSteps n s = .next t ∧ t.busy = false) ∧
  (∀ s u : State, s.Inv → s.busy = false → s.phase = .absorb → s.inputs = [] → exec .final s = .next u →
    let n := if s.bufcnt.toNat ≤ blockSize s.alg - lenFieldSize s.alg - 1 then rounds s.alg + 1
      else 2 * (rounds s.alg + 1)
    (∃ t, runSteps n u = .next t ∧ t.busy = false ∧ t.phase = .done) ∧
    ∀ k, k < n → ∃ t, runSteps k u = .next t ∧ t.busy = true ∧ t.phase = .final) ∧
  (∀ (rest : List HostOp) (s : State), HostRun.move .host { todo := .wait :: rest, machine := s } =
    .next { todo := if s.busy then .wait :: rest else rest, machine := busRead 0x04 s }) ∧
  (∀ (ms : List Move) (s t : State),
    HostRun.run ms { todo := [.wait], machine := s } = .next { todo := [], machine := t } → t.busy = false) ∧
  (∀ (ms : List Move) (s : State), s.Inv → 2 * (rounds s.alg + 1) ≤ ms.count .engine →
    ∃ t, HostRun.run (ms ++ [.host]) { todo := [.wait], machine := s } = .next { todo := [], machine := t } ∧
      t.busy = false)

/-- A step or a bus access of one instance leaves every other instance alone (derived: 60_exceptions.md section 4,
20_memory.md section 1). On a platform, a step of instance k changes no other instance and is that instance's
own step; a bus access at an address changes only one instance whose window holds it, by one input at the
offset from its base. Where windows overlap, that only the first is reached is the model's choice, and so are
addresses of unlimited width (log 12). -/
def Obligations.PlatformInstancesIndependent : Prop :=
  (∀ (p q : Platform) (k : Nat), Platform.stepAt k p = .next q →
    q.length = p.length ∧ (∀ j, j ≠ k → q[j]? = p[j]?) ∧
    ∀ s, p[k]? = some s → ∃ t, step s = .next t ∧ q[k]? = some t) ∧
  (∀ (p q : Platform) (addr : Nat) (a : Access), Platform.access addr a p = some q →
    ∃ k off s, p[k]? = some s ∧ Config.hcBase k ≤ addr ∧ addr < Config.hcBase k + 64 ∧ off = addr - Config.hcBase k ∧
      q[k]? = some { s with inputs := s.inputs ++ [a.input off] } ∧ ∀ j, j ≠ k → q[j]? = p[j]?)
end

