-- ==== Sys2Proof/Laws/Bytes.lean ====
section
/-! SUPPORT. The laws of the block buffer and the register files: what a read gives after an update, and that equal reads
mean equal contents. -/

namespace Sys2Proof.Machine

theorem bufByte_of_lt (buf : Vector Byte 128) (k : Nat) (hk : k < 128) : bufByte buf k = buf[k] := by
  simp [bufByte, hk]

/-- A read after an update gives the updated byte. -/
theorem bufByte_updateBuf (buf : Vector Byte 128) (f : Nat → Byte → Byte) (k : Nat) (hk : k < 128) :
    bufByte (updateBuf buf f) k = f k (bufByte buf k) := by
  rw [bufByte_of_lt _ _ hk]
  unfold updateBuf
  rw [Vector.getElem_ofFn]

/-- A byte the update keeps reads as before, whatever the index. -/
theorem bufByte_updateBuf_same (buf : Vector Byte 128) (f : Nat → Byte → Byte) (k : Nat)
    (hf : f k (bufByte buf k) = bufByte buf k) : bufByte (updateBuf buf f) k = bufByte buf k := by
  by_cases hk : k < 128
  · rw [bufByte_updateBuf _ _ _ hk, hf]
  · simp [bufByte, hk]

/-- Buffers that read the same everywhere are equal. -/
theorem buf_ext (a b : Vector Byte 128) (h : ∀ k, k < 128 → bufByte a k = bufByte b k) : a = b := by
  apply Vector.ext
  intro k hk
  simpa [bufByte_of_lt _ _ hk] using h k hk

theorem regAt_of_lt (r : Vector DWord 8) (i : Nat) (hi : i < 8) : regAt r i = r[i] := by
  simp [regAt, hi]

/-- A read after an update gives the updated register. -/
theorem regAt_updateRegs (r : Vector DWord 8) (f : Nat → DWord → DWord) (i : Nat) (hi : i < 8) :
    regAt (updateRegs r f) i = f i (regAt r i) := by
  rw [regAt_of_lt _ _ hi]
  unfold updateRegs
  rw [Vector.getElem_ofFn]

/-- Register files that read the same everywhere are equal. -/
theorem regs_ext (a b : Vector DWord 8) (h : ∀ i, i < 8 → regAt a i = regAt b i) : a = b := by
  apply Vector.ext
  intro i hi
  simpa [regAt_of_lt _ _ hi] using h i hi

@[simp] theorem lowWord_zext64 (v : Word) : lowWord (zext64 v) = v := by
  apply BitVec.eq_of_toNat_eq
  have := v.isLt
  simp only [lowWord, zext64, BitVec.extractLsb'_toNat, BitVec.toNat_setWidth, Nat.shiftRight_zero]
  omega

theorem zext64_lt (v : Word) : (zext64 v).toNat < 2 ^ 32 := by
  have := v.isLt
  simp only [zext64, BitVec.toNat_setWidth]
  omega

/-- Reading back the MD5 registers just written. -/
@[simp] theorem loadMd5_storeMd5 (r : Vector DWord 8) (m : Md5Regs) : loadMd5 (storeMd5 r m) = m := by
  simp [loadMd5, storeMd5, regAt_updateRegs]

/-- Reading back the SHA-512 registers just written. -/
@[simp] theorem loadSha_storeSha (r : Vector DWord 8) (m : Sha512Regs) : loadSha (storeSha r m) = m := by
  simp [loadSha, storeSha, regAt_updateRegs]

/-- Storing MD5 registers leaves entries 4..7 alone. -/
theorem regAt_storeMd5_high (r : Vector DWord 8) (m : Md5Regs) (i : Nat) (hi : 4 ≤ i) (h8 : i < 8) :
    regAt (storeMd5 r m) i = regAt r i := by
  rw [storeMd5, regAt_updateRegs _ _ _ h8]
  split <;> first | omega | rfl

@[simp] theorem blockOf_length (alg : Alg) (buf : Vector Byte 128) : (blockOf alg buf).length = blockSize alg := by
  simp [blockOf]

/-- The block is BUF[0..BS-1], byte by byte. -/
theorem byteAt_blockOf (alg : Alg) (buf : Vector Byte 128) (k : Nat) (hk : k < blockSize alg) :
    byteAt (blockOf alg buf) k = bufByte buf k := by
  simp [byteAt, blockOf, List.getD_eq_getElem?_getD, hk]

/-- The block depends on BUF[0..BS-1] only. -/
theorem blockOf_congr (alg : Alg) (a b : Vector Byte 128)
    (h : ∀ k, k < blockSize alg → bufByte a k = bufByte b k) : blockOf alg a = blockOf alg b := by
  simp only [blockOf]
  apply List.map_congr_left
  intro k hk
  exact h k (List.mem_range.mp hk)

@[simp] theorem leBytes_length (n v : Nat) : (leBytes n v).length = n := by simp [leBytes]

@[simp] theorem beBytes_length (n v : Nat) : (beBytes n v).length = n := by simp [beBytes]

@[simp] theorem lenField_length (alg : Alg) (len : Nat) : (lenField alg len).length = lenFieldSize alg := by
  cases alg <;> simp [lenField, lenFieldSize]

/-- What ABSORB leaves at byte `k` of BUF. -/
theorem bufByte_putByte (n : Nat) (byte : Byte) (buf : Vector Byte 128) (k : Nat) (hk : k < 128) :
    bufByte (putByte n byte buf) k = if k = n then byte else bufByte buf k := by
  rw [putByte, bufByte_updateBuf _ _ _ hk]

/-- What FINAL leaves at byte `k` of BUF. -/
theorem bufByte_padFirst (alg : Alg) (n : Nat) (len : DWord) (buf : Vector Byte 128) (k : Nat) (hk : k < 128) :
    bufByte (padFirst alg n len buf) k =
      if k = n then 0x80
      else if n < k ∧ k < blockSize alg then
        if lenFits alg n ∧ blockSize alg - lenFieldSize alg ≤ k then lenFieldByte alg len k else 0x00
      else bufByte buf k := by
  rw [padFirst, bufByte_updateBuf _ _ _ hk]

/-- What pad_second() leaves at byte `k` of BUF. -/
theorem bufByte_padSecondBuf (alg : Alg) (len : DWord) (buf : Vector Byte 128) (k : Nat) (hk : k < 128) :
    bufByte (padSecondBuf alg len buf) k =
      if k < blockSize alg - lenFieldSize alg then 0x00
      else if k < blockSize alg then lenFieldByte alg len k
      else bufByte buf k := by
  rw [padSecondBuf, bufByte_updateBuf _ _ _ hk]

/-- The MD5 rounds are a fold: one more round is one more application. -/
@[simp] theorem md5Rounds_succ (block : List Byte) (start : Md5Regs) (n : Nat) :
    md5Rounds block start (n + 1) = md5Round block n (md5Rounds block start n) := rfl

@[simp] theorem sha512Rounds_succ (block : List Byte) (start : Sha512Regs) (n : Nat) :
    sha512Rounds block start (n + 1) = sha512Round (shaWord block n) n (sha512Rounds block start n) := rfl

end Sys2Proof.Machine
end

