-- ==== Sys2Proof/Laws/State.lean ====
section
/-! SUPPORT. What each named update of State does to each field: one lemma a field, true by unfolding the update. -/

namespace Sys2Proof.Machine

@[simp] theorem clearError_h (s : State) : (clearError s).h = s.h := rfl
@[simp] theorem clearError_v (s : State) : (clearError s).v = s.v := rfl
@[simp] theorem clearError_alg (s : State) : (clearError s).alg = s.alg := rfl
@[simp] theorem clearError_phase (s : State) : (clearError s).phase = s.phase := rfl
@[simp] theorem clearError_busy (s : State) : (clearError s).busy = s.busy := rfl
@[simp] theorem clearError_rnd (s : State) : (clearError s).rnd = s.rnd := rfl
@[simp] theorem clearError_nblk (s : State) : (clearError s).nblk = s.nblk := rfl
@[simp] theorem clearError_buf (s : State) : (clearError s).buf = s.buf := rfl
@[simp] theorem clearError_bufcnt (s : State) : (clearError s).bufcnt = s.bufcnt := rfl
@[simp] theorem clearError_len (s : State) : (clearError s).len = s.len := rfl
@[simp] theorem clearError_err (s : State) : (clearError s).err = false := rfl
@[simp] theorem clearError_errcode (s : State) : (clearError s).errcode = .eNone := rfl
@[simp] theorem clearError_result (s : State) : (clearError s).result = s.result := rfl
@[simp] theorem clearError_inputs (s : State) : (clearError s).inputs = s.inputs := rfl
@[simp] theorem clearError_reads (s : State) : (clearError s).reads = s.reads := rfl

@[simp] theorem startBlock_h (s : State) : (startBlock s).h = s.h := rfl
@[simp] theorem startBlock_v (s : State) : (startBlock s).v = s.h := rfl
@[simp] theorem startBlock_alg (s : State) : (startBlock s).alg = s.alg := rfl
@[simp] theorem startBlock_phase (s : State) : (startBlock s).phase = s.phase := rfl
@[simp] theorem startBlock_busy (s : State) : (startBlock s).busy = true := rfl
@[simp] theorem startBlock_rnd (s : State) : (startBlock s).rnd = 0 := rfl
@[simp] theorem startBlock_nblk (s : State) : (startBlock s).nblk = s.nblk := rfl
@[simp] theorem startBlock_buf (s : State) : (startBlock s).buf = s.buf := rfl
@[simp] theorem startBlock_bufcnt (s : State) : (startBlock s).bufcnt = s.bufcnt := rfl
@[simp] theorem startBlock_len (s : State) : (startBlock s).len = s.len := rfl
@[simp] theorem startBlock_err (s : State) : (startBlock s).err = s.err := rfl
@[simp] theorem startBlock_errcode (s : State) : (startBlock s).errcode = s.errcode := rfl
@[simp] theorem startBlock_result (s : State) : (startBlock s).result = s.result := rfl
@[simp] theorem startBlock_inputs (s : State) : (startBlock s).inputs = s.inputs := rfl
@[simp] theorem startBlock_reads (s : State) : (startBlock s).reads = s.reads := rfl

@[simp] theorem padSecond_h (s : State) : (padSecond s).h = s.h := rfl
@[simp] theorem padSecond_v (s : State) : (padSecond s).v = s.h := rfl
@[simp] theorem padSecond_alg (s : State) : (padSecond s).alg = s.alg := rfl
@[simp] theorem padSecond_phase (s : State) : (padSecond s).phase = s.phase := rfl
@[simp] theorem padSecond_busy (s : State) : (padSecond s).busy = true := rfl
@[simp] theorem padSecond_rnd (s : State) : (padSecond s).rnd = 0 := rfl
@[simp] theorem padSecond_nblk (s : State) : (padSecond s).nblk = 1 := rfl
@[simp] theorem padSecond_buf (s : State) : (padSecond s).buf = padSecondBuf s.alg s.len s.buf := rfl
@[simp] theorem padSecond_bufcnt (s : State) : (padSecond s).bufcnt = s.bufcnt := rfl
@[simp] theorem padSecond_len (s : State) : (padSecond s).len = s.len := rfl
@[simp] theorem padSecond_err (s : State) : (padSecond s).err = s.err := rfl
@[simp] theorem padSecond_errcode (s : State) : (padSecond s).errcode = s.errcode := rfl
@[simp] theorem padSecond_result (s : State) : (padSecond s).result = s.result := rfl
@[simp] theorem padSecond_inputs (s : State) : (padSecond s).inputs = s.inputs := rfl
@[simp] theorem padSecond_reads (s : State) : (padSecond s).reads = s.reads := rfl

@[simp] theorem md5RoundStep_h (s : State) : (md5RoundStep s).h = s.h := rfl
@[simp] theorem md5RoundStep_v (s : State) : (md5RoundStep s).v = storeMd5 s.v (md5Round (blockOf .md5 s.buf) s.rnd.toNat (loadMd5 s.v)) := rfl
@[simp] theorem md5RoundStep_alg (s : State) : (md5RoundStep s).alg = s.alg := rfl
@[simp] theorem md5RoundStep_phase (s : State) : (md5RoundStep s).phase = s.phase := rfl
@[simp] theorem md5RoundStep_busy (s : State) : (md5RoundStep s).busy = s.busy := rfl
@[simp] theorem md5RoundStep_rnd (s : State) : (md5RoundStep s).rnd = s.rnd + 1 := rfl
@[simp] theorem md5RoundStep_nblk (s : State) : (md5RoundStep s).nblk = s.nblk := rfl
@[simp] theorem md5RoundStep_buf (s : State) : (md5RoundStep s).buf = s.buf := rfl
@[simp] theorem md5RoundStep_bufcnt (s : State) : (md5RoundStep s).bufcnt = s.bufcnt := rfl
@[simp] theorem md5RoundStep_len (s : State) : (md5RoundStep s).len = s.len := rfl
@[simp] theorem md5RoundStep_err (s : State) : (md5RoundStep s).err = s.err := rfl
@[simp] theorem md5RoundStep_errcode (s : State) : (md5RoundStep s).errcode = s.errcode := rfl
@[simp] theorem md5RoundStep_result (s : State) : (md5RoundStep s).result = s.result := rfl
@[simp] theorem md5RoundStep_inputs (s : State) : (md5RoundStep s).inputs = s.inputs := rfl
@[simp] theorem md5RoundStep_reads (s : State) : (md5RoundStep s).reads = s.reads := rfl

@[simp] theorem sha512RoundStep_h (s : State) : (sha512RoundStep s).h = s.h := rfl
@[simp] theorem sha512RoundStep_v (s : State) : (sha512RoundStep s).v = storeSha s.v (sha512Round (shaWord (blockOf .sha512 s.buf) s.rnd.toNat) s.rnd.toNat (loadSha s.v)) := rfl
@[simp] theorem sha512RoundStep_alg (s : State) : (sha512RoundStep s).alg = s.alg := rfl
@[simp] theorem sha512RoundStep_phase (s : State) : (sha512RoundStep s).phase = s.phase := rfl
@[simp] theorem sha512RoundStep_busy (s : State) : (sha512RoundStep s).busy = s.busy := rfl
@[simp] theorem sha512RoundStep_rnd (s : State) : (sha512RoundStep s).rnd = s.rnd + 1 := rfl
@[simp] theorem sha512RoundStep_nblk (s : State) : (sha512RoundStep s).nblk = s.nblk := rfl
@[simp] theorem sha512RoundStep_buf (s : State) : (sha512RoundStep s).buf = s.buf := rfl
@[simp] theorem sha512RoundStep_bufcnt (s : State) : (sha512RoundStep s).bufcnt = s.bufcnt := rfl
@[simp] theorem sha512RoundStep_len (s : State) : (sha512RoundStep s).len = s.len := rfl
@[simp] theorem sha512RoundStep_err (s : State) : (sha512RoundStep s).err = s.err := rfl
@[simp] theorem sha512RoundStep_errcode (s : State) : (sha512RoundStep s).errcode = s.errcode := rfl
@[simp] theorem sha512RoundStep_result (s : State) : (sha512RoundStep s).result = s.result := rfl
@[simp] theorem sha512RoundStep_inputs (s : State) : (sha512RoundStep s).inputs = s.inputs := rfl
@[simp] theorem sha512RoundStep_reads (s : State) : (sha512RoundStep s).reads = s.reads := rfl

@[simp] theorem resetState_h (s : State) : (resetState s).h = State.reset.h := rfl
@[simp] theorem resetState_v (s : State) : (resetState s).v = State.reset.v := rfl
@[simp] theorem resetState_alg (s : State) : (resetState s).alg = State.reset.alg := rfl
@[simp] theorem resetState_phase (s : State) : (resetState s).phase = State.reset.phase := rfl
@[simp] theorem resetState_busy (s : State) : (resetState s).busy = State.reset.busy := rfl
@[simp] theorem resetState_rnd (s : State) : (resetState s).rnd = State.reset.rnd := rfl
@[simp] theorem resetState_nblk (s : State) : (resetState s).nblk = State.reset.nblk := rfl
@[simp] theorem resetState_buf (s : State) : (resetState s).buf = State.reset.buf := rfl
@[simp] theorem resetState_bufcnt (s : State) : (resetState s).bufcnt = State.reset.bufcnt := rfl
@[simp] theorem resetState_len (s : State) : (resetState s).len = State.reset.len := rfl
@[simp] theorem resetState_err (s : State) : (resetState s).err = State.reset.err := rfl
@[simp] theorem resetState_errcode (s : State) : (resetState s).errcode = State.reset.errcode := rfl
@[simp] theorem resetState_result (s : State) : (resetState s).result = State.reset.result := rfl
@[simp] theorem resetState_inputs (s : State) : (resetState s).inputs = s.inputs := rfl
@[simp] theorem resetState_reads (s : State) : (resetState s).reads = s.reads := rfl

@[simp] theorem busRead_h (off : Nat) (s : State) : (busRead off s).h = s.h := rfl
@[simp] theorem busRead_v (off : Nat) (s : State) : (busRead off s).v = s.v := rfl
@[simp] theorem busRead_alg (off : Nat) (s : State) : (busRead off s).alg = s.alg := rfl
@[simp] theorem busRead_phase (off : Nat) (s : State) : (busRead off s).phase = s.phase := rfl
@[simp] theorem busRead_busy (off : Nat) (s : State) : (busRead off s).busy = s.busy := rfl
@[simp] theorem busRead_rnd (off : Nat) (s : State) : (busRead off s).rnd = s.rnd := rfl
@[simp] theorem busRead_nblk (off : Nat) (s : State) : (busRead off s).nblk = s.nblk := rfl
@[simp] theorem busRead_buf (off : Nat) (s : State) : (busRead off s).buf = s.buf := rfl
@[simp] theorem busRead_bufcnt (off : Nat) (s : State) : (busRead off s).bufcnt = s.bufcnt := rfl
@[simp] theorem busRead_len (off : Nat) (s : State) : (busRead off s).len = s.len := rfl
@[simp] theorem busRead_err (off : Nat) (s : State) : (busRead off s).err = s.err := rfl
@[simp] theorem busRead_errcode (off : Nat) (s : State) : (busRead off s).errcode = s.errcode := rfl
@[simp] theorem busRead_result (off : Nat) (s : State) : (busRead off s).result = s.result := rfl
@[simp] theorem busRead_inputs (off : Nat) (s : State) : (busRead off s).inputs = s.inputs := rfl
@[simp] theorem busRead_reads (off : Nat) (s : State) : (busRead off s).reads = s.reads ++ [busReadValue off s] := rfl

@[simp] theorem setResult_h (value : Word) (s : State) : (setResult value s).h = s.h := rfl
@[simp] theorem setResult_v (value : Word) (s : State) : (setResult value s).v = s.v := rfl
@[simp] theorem setResult_alg (value : Word) (s : State) : (setResult value s).alg = s.alg := rfl
@[simp] theorem setResult_phase (value : Word) (s : State) : (setResult value s).phase = s.phase := rfl
@[simp] theorem setResult_busy (value : Word) (s : State) : (setResult value s).busy = s.busy := rfl
@[simp] theorem setResult_rnd (value : Word) (s : State) : (setResult value s).rnd = s.rnd := rfl
@[simp] theorem setResult_nblk (value : Word) (s : State) : (setResult value s).nblk = s.nblk := rfl
@[simp] theorem setResult_buf (value : Word) (s : State) : (setResult value s).buf = s.buf := rfl
@[simp] theorem setResult_bufcnt (value : Word) (s : State) : (setResult value s).bufcnt = s.bufcnt := rfl
@[simp] theorem setResult_len (value : Word) (s : State) : (setResult value s).len = s.len := rfl
@[simp] theorem setResult_err (value : Word) (s : State) : (setResult value s).err = s.err := rfl
@[simp] theorem setResult_errcode (value : Word) (s : State) : (setResult value s).errcode = s.errcode := rfl
@[simp] theorem setResult_result (value : Word) (s : State) : (setResult value s).result = value := rfl
@[simp] theorem setResult_inputs (value : Word) (s : State) : (setResult value s).inputs = s.inputs := rfl
@[simp] theorem setResult_reads (value : Word) (s : State) : (setResult value s).reads = s.reads := rfl

@[simp] theorem beginDigest_h (alg : Alg) (s : State) : (beginDigest alg s).h = initH alg := rfl
@[simp] theorem beginDigest_v (alg : Alg) (s : State) : (beginDigest alg s).v = s.v := rfl
@[simp] theorem beginDigest_alg (alg : Alg) (s : State) : (beginDigest alg s).alg = alg := rfl
@[simp] theorem beginDigest_phase (alg : Alg) (s : State) : (beginDigest alg s).phase = .absorb := rfl
@[simp] theorem beginDigest_busy (alg : Alg) (s : State) : (beginDigest alg s).busy = s.busy := rfl
@[simp] theorem beginDigest_rnd (alg : Alg) (s : State) : (beginDigest alg s).rnd = s.rnd := rfl
@[simp] theorem beginDigest_nblk (alg : Alg) (s : State) : (beginDigest alg s).nblk = 0 := rfl
@[simp] theorem beginDigest_buf (alg : Alg) (s : State) : (beginDigest alg s).buf = s.buf := rfl
@[simp] theorem beginDigest_bufcnt (alg : Alg) (s : State) : (beginDigest alg s).bufcnt = 0 := rfl
@[simp] theorem beginDigest_len (alg : Alg) (s : State) : (beginDigest alg s).len = 0 := rfl
@[simp] theorem beginDigest_err (alg : Alg) (s : State) : (beginDigest alg s).err = s.err := rfl
@[simp] theorem beginDigest_errcode (alg : Alg) (s : State) : (beginDigest alg s).errcode = s.errcode := rfl
@[simp] theorem beginDigest_result (alg : Alg) (s : State) : (beginDigest alg s).result = 0 := rfl
@[simp] theorem beginDigest_inputs (alg : Alg) (s : State) : (beginDigest alg s).inputs = s.inputs := rfl
@[simp] theorem beginDigest_reads (alg : Alg) (s : State) : (beginDigest alg s).reads = s.reads := rfl

@[simp] theorem takeByte_h (byte : Byte) (s : State) : (takeByte byte s).h = s.h := rfl
@[simp] theorem takeByte_v (byte : Byte) (s : State) : (takeByte byte s).v = s.v := rfl
@[simp] theorem takeByte_alg (byte : Byte) (s : State) : (takeByte byte s).alg = s.alg := rfl
@[simp] theorem takeByte_phase (byte : Byte) (s : State) : (takeByte byte s).phase = s.phase := rfl
@[simp] theorem takeByte_busy (byte : Byte) (s : State) : (takeByte byte s).busy = s.busy := rfl
@[simp] theorem takeByte_rnd (byte : Byte) (s : State) : (takeByte byte s).rnd = s.rnd := rfl
@[simp] theorem takeByte_nblk (byte : Byte) (s : State) : (takeByte byte s).nblk = s.nblk := rfl
@[simp] theorem takeByte_buf (byte : Byte) (s : State) : (takeByte byte s).buf = putByte s.bufcnt.toNat byte s.buf := rfl
@[simp] theorem takeByte_bufcnt (byte : Byte) (s : State) : (takeByte byte s).bufcnt = s.bufcnt + 1 := rfl
@[simp] theorem takeByte_len (byte : Byte) (s : State) : (takeByte byte s).len = s.len + 1 := rfl
@[simp] theorem takeByte_err (byte : Byte) (s : State) : (takeByte byte s).err = s.err := rfl
@[simp] theorem takeByte_errcode (byte : Byte) (s : State) : (takeByte byte s).errcode = s.errcode := rfl
@[simp] theorem takeByte_result (byte : Byte) (s : State) : (takeByte byte s).result = s.result := rfl
@[simp] theorem takeByte_inputs (byte : Byte) (s : State) : (takeByte byte s).inputs = s.inputs := rfl
@[simp] theorem takeByte_reads (byte : Byte) (s : State) : (takeByte byte s).reads = s.reads := rfl

@[simp] theorem padAndStart_h (s : State) : (padAndStart s).h = s.h := rfl
@[simp] theorem padAndStart_v (s : State) : (padAndStart s).v = s.h := rfl
@[simp] theorem padAndStart_alg (s : State) : (padAndStart s).alg = s.alg := rfl
@[simp] theorem padAndStart_phase (s : State) : (padAndStart s).phase = .final := rfl
@[simp] theorem padAndStart_busy (s : State) : (padAndStart s).busy = true := rfl
@[simp] theorem padAndStart_rnd (s : State) : (padAndStart s).rnd = 0 := rfl
@[simp] theorem padAndStart_nblk (s : State) : (padAndStart s).nblk = if lenFits s.alg s.bufcnt.toNat then 1 else 2 := rfl
@[simp] theorem padAndStart_buf (s : State) : (padAndStart s).buf = padFirst s.alg s.bufcnt.toNat s.len s.buf := rfl
@[simp] theorem padAndStart_bufcnt (s : State) : (padAndStart s).bufcnt = s.bufcnt := rfl
@[simp] theorem padAndStart_len (s : State) : (padAndStart s).len = s.len := rfl
@[simp] theorem padAndStart_err (s : State) : (padAndStart s).err = s.err := rfl
@[simp] theorem padAndStart_errcode (s : State) : (padAndStart s).errcode = s.errcode := rfl
@[simp] theorem padAndStart_result (s : State) : (padAndStart s).result = s.result := rfl
@[simp] theorem padAndStart_inputs (s : State) : (padAndStart s).inputs = s.inputs := rfl
@[simp] theorem padAndStart_reads (s : State) : (padAndStart s).reads = s.reads := rfl

@[simp] theorem raiseError_h (code : ErrCode) (s : State) : (raiseError code s).h = s.h := by
  unfold raiseError; split <;> rfl
@[simp] theorem raiseError_v (code : ErrCode) (s : State) : (raiseError code s).v = s.v := by
  unfold raiseError; split <;> rfl
@[simp] theorem raiseError_alg (code : ErrCode) (s : State) : (raiseError code s).alg = s.alg := by
  unfold raiseError; split <;> rfl
@[simp] theorem raiseError_phase (code : ErrCode) (s : State) : (raiseError code s).phase = s.phase := by
  unfold raiseError; split <;> rfl
@[simp] theorem raiseError_busy (code : ErrCode) (s : State) : (raiseError code s).busy = s.busy := by
  unfold raiseError; split <;> rfl
@[simp] theorem raiseError_rnd (code : ErrCode) (s : State) : (raiseError code s).rnd = s.rnd := by
  unfold raiseError; split <;> rfl
@[simp] theorem raiseError_nblk (code : ErrCode) (s : State) : (raiseError code s).nblk = s.nblk := by
  unfold raiseError; split <;> rfl
@[simp] theorem raiseError_buf (code : ErrCode) (s : State) : (raiseError code s).buf = s.buf := by
  unfold raiseError; split <;> rfl
@[simp] theorem raiseError_bufcnt (code : ErrCode) (s : State) : (raiseError code s).bufcnt = s.bufcnt := by
  unfold raiseError; split <;> rfl
@[simp] theorem raiseError_len (code : ErrCode) (s : State) : (raiseError code s).len = s.len := by
  unfold raiseError; split <;> rfl
@[simp] theorem raiseError_result (code : ErrCode) (s : State) : (raiseError code s).result = s.result := by
  unfold raiseError; split <;> rfl
@[simp] theorem raiseError_inputs (code : ErrCode) (s : State) : (raiseError code s).inputs = s.inputs := by
  unfold raiseError; split <;> rfl
@[simp] theorem raiseError_reads (code : ErrCode) (s : State) : (raiseError code s).reads = s.reads := by
  unfold raiseError; split <;> rfl
@[simp] theorem raiseError_err (code : ErrCode) (s : State) : (raiseError code s).err = true := by
  unfold raiseError; split <;> simp_all
@[simp] theorem raiseError_errcode (code : ErrCode) (s : State) :
    (raiseError code s).errcode = if s.err then s.errcode else code := by
  unfold raiseError; split <;> simp_all

/-- The error record sticks: with ERR = 1 an error changes nothing. -/
theorem raiseError_of_err (code : ErrCode) (s : State) (h : s.err = true) : raiseError code s = s := by
  simp [raiseError, h]

end Sys2Proof.Machine
end

