-- ==== Sys2Proof/Laws/Ops.lean ====
section
/-! SUPPORT. What each shared operation can do, said once: the command checks, the guard every command goes through, the
engine step, the end of a block, and the machine's step. Proofs cite these and do not unfold the operations. -/

namespace Sys2Proof.Machine

/-- A guarded command that passes its checks is its effect. -/
theorem guarded_of_none (i : Instr) (s : State) (effect : Result) (h : rejection i s = none) :
    guarded i s effect = effect := by
  simp [guarded, h]

/-- A guarded command that fails a check records the error and does nothing else. -/
theorem guarded_of_some (i : Instr) (s : State) (effect : Result) (code : ErrCode) (h : rejection i s = some code) :
    guarded i s effect = .next (raiseError code s) := by
  simp [guarded, h]

/-- All a guarded command can do. -/
theorem guarded_cases (i : Instr) (s : State) (effect : Result) :
    (rejection i s = none ∧ guarded i s effect = effect) ∨
      ∃ code, rejection i s = some code ∧ guarded i s effect = .next (raiseError code s) := by
  cases h : rejection i s with
  | none => exact .inl ⟨rfl, guarded_of_none i s effect h⟩
  | some code => exact .inr ⟨code, rfl, guarded_of_some i s effect code h⟩

/-- When a command passes every check: not busy (but for NOP), a legal phase, operands in range, and for ABSORB room in
LEN. -/
theorem rejection_none_iff (i : Instr) (s : State) :
    rejection i s = none ↔
      (s.busy = false ∨ i = .nop) ∧ legalPhase i s.phase = true ∧ inRange i s.alg = true ∧
        ∀ b, i = .absorb b → s.len ≠ maxLen := by
  have hsplit : ∀ (a b c : Bool) (x y z : ErrCode) (o : Option ErrCode),
      (if a then some x else if b then some y else if c then some z else o) = none ↔
        a = false ∧ b = false ∧ c = false ∧ o = none := by
    intro a b c x y z o
    cases a <;> cases b <;> cases c <;> simp
  unfold rejection
  rw [hsplit]
  cases i <;> simp [legalPhase, inRange, Classical.or_iff_not_imp_left]

/-- The code of a rejection, in the order of the checks. -/
theorem rejection_busy (i : Instr) (s : State) (hb : s.busy = true) (hi : i ≠ .nop) : rejection i s = some .eBusy := by
  simp [rejection, hb, hi]

theorem rejection_sequence (i : Instr) (s : State) (hb : s.busy = false) (hp : legalPhase i s.phase = false) :
    rejection i s = some .eSequence := by
  simp [rejection, hb, hp]

theorem rejection_range (i : Instr) (s : State) (hb : s.busy = false) (hp : legalPhase i s.phase = true)
    (hr : inRange i s.alg = false) : rejection i s = some .eRange := by
  simp [rejection, hb, hp, hr]

theorem rejection_overflow (b : Byte) (s : State) (hb : s.busy = false) (hp : s.phase = .absorb)
    (hl : s.len = maxLen) : rejection (.absorb b) s = some .eOverflow := by
  simp [rejection, hb, hp, hl, legalPhase, inRange]

/-- All complete_block() can do (R211). -/
theorem completeBlock_cases (s : State) :
    (s.phase = .final ∧ s.nblk = 2 ∧ completeBlock s = padSecond s) ∨
    (s.phase = .final ∧ s.nblk ≠ 2 ∧
      completeBlock s = { s with busy := false, bufcnt := 0, phase := .done, nblk := 0 }) ∨
    (s.phase ≠ .final ∧ completeBlock s = { s with busy := false, bufcnt := 0 }) := by
  unfold completeBlock
  by_cases hp : s.phase = .final
  · by_cases hn : s.nblk = 2
    · exact .inl ⟨hp, hn, if_pos ⟨hp, hn⟩⟩
    · exact .inr (.inl ⟨hp, hn, by rw [if_neg (fun h => hn h.2), if_pos hp]⟩)
  · exact .inr (.inr ⟨hp, by rw [if_neg (fun h => hp h.1), if_neg hp]⟩)

/-- complete_block() touches neither H, ALG, LEN, the error record, RESULT nor the host's side. -/
theorem completeBlock_frame (s : State) :
    (completeBlock s).h = s.h ∧ (completeBlock s).alg = s.alg ∧ (completeBlock s).len = s.len ∧
      (completeBlock s).err = s.err ∧ (completeBlock s).errcode = s.errcode ∧ (completeBlock s).result = s.result ∧
      (completeBlock s).inputs = s.inputs ∧ (completeBlock s).reads = s.reads := by
  rcases completeBlock_cases s with ⟨_, _, h⟩ | ⟨_, _, h⟩ | ⟨_, h⟩ <;> rw [h] <;> simp

/-- All an engine step can do (R210). -/
theorem engineStep_cases (s : State) :
    (s.alg = .md5 ∧ s.rnd.toNat < 64 ∧ engineStep s = md5RoundStep s) ∨
    (s.alg = .sha512 ∧ s.rnd.toNat < 80 ∧ engineStep s = sha512RoundStep s) ∨
    (s.alg = .md5 ∧ 64 ≤ s.rnd.toNat ∧ engineStep s = md5Feed s) ∨
    (s.alg = .sha512 ∧ 80 ≤ s.rnd.toNat ∧ engineStep s = sha512Feed s) := by
  unfold engineStep
  cases ha : s.alg <;> simp only [rounds]
  · by_cases hr : s.rnd.toNat < 64 <;> simp [hr]; omega
  · by_cases hr : s.rnd.toNat < 80 <;> simp [hr]; omega

/-- An engine step never touches ALG, LEN, the error record, RESULT or the host's side. -/
theorem engineStep_frame (s : State) :
    (engineStep s).alg = s.alg ∧ (engineStep s).len = s.len ∧ (engineStep s).err = s.err ∧
      (engineStep s).errcode = s.errcode ∧ (engineStep s).result = s.result ∧
      (engineStep s).inputs = s.inputs ∧ (engineStep s).reads = s.reads := by
  rcases engineStep_cases s with ⟨_, _, h⟩ | ⟨_, _, h⟩ | ⟨_, _, h⟩ | ⟨_, _, h⟩ <;> rw [h]
  · simp
  · simp
  · obtain ⟨-, ha, hl, he, hc, hr, hi, ho⟩ := completeBlock_frame { s with h := md5FeedH s.h s.v }
    exact ⟨ha, hl, he, hc, hr, hi, ho⟩
  · obtain ⟨-, ha, hl, he, hc, hr, hi, ho⟩ := completeBlock_frame { s with h := sha512FeedH s.h s.v }
    exact ⟨ha, hl, he, hc, hr, hi, ho⟩

theorem engineTurn_idle (s : State) (h : s.busy = false) : engineTurn s = s := by simp [engineTurn, h]

theorem engineTurn_busy (s : State) (h : s.busy = true) : engineTurn s = engineStep s := by simp [engineTurn, h]

/-- The effect of a command that passes its checks, as exec gives it. -/
def effectOf (i : Instr) (s : State) : Result :=
  match i with
  | .nop => .next s
  | .init alg => .next (beginDigest alg s)
  | .absorb byte => if s.bufcnt.toNat < 128 then .next (absorbByte byte s) else .fault .bufIndexBeyondBuffer
  | .final => if s.bufcnt.toNat < 128 then .next (padAndStart s) else .fault .bufIndexBeyondBuffer
  | .rdbyte idx => .next (setResult (zext32 (byteAt (digestOf s) idx)) s)
  | .rdhex idx => .next (setResult (zext32 (hexChar (digestOf s) idx)) s)
  | .rdb64 idx => .next (setResult (zext32 (b64Char (digestOf s) idx)) s)
  | .rdchain j half => .next (setResult (chainHalf half (regAt s.h j)) s)
  | .clrerr => .next (clearError s)

/-- Every command is its effect behind the guard. -/
theorem exec_eq_guarded (i : Instr) (s : State) : exec i s = guarded i s (effectOf i s) := by
  cases i <;> rfl

/-- All a command can do: it passes its checks and has its effect, or records the error of the first that fails. -/
theorem exec_cases (i : Instr) (s : State) :
    (rejection i s = none ∧ exec i s = effectOf i s) ∨
      ∃ code, rejection i s = some code ∧ exec i s = .next (raiseError code s) := by
  rw [exec_eq_guarded]
  exact guarded_cases i s (effectOf i s)

/-- All absorbing a byte can do: take it, and start the block if it is the last of one. -/
theorem absorbByte_cases (byte : Byte) (s : State) :
    ((s.bufcnt + 1).toNat = blockSize s.alg ∧ absorbByte byte s = startBlock (takeByte byte s)) ∨
      ((s.bufcnt + 1).toNat ≠ blockSize s.alg ∧ absorbByte byte s = takeByte byte s) := by
  unfold absorbByte
  by_cases h : (s.bufcnt + 1).toNat = blockSize s.alg
  · exact .inl ⟨h, by rw [if_pos h]⟩
  · exact .inr ⟨h, by rw [if_neg h]⟩

/-- A step with no input is the engine's turn. -/
theorem step_nil (s : State) (h : s.inputs = []) : step s = .next (engineTurn s) := by simp [step, h]

/-- A step with an input serves it, taken off the schedule. -/
theorem step_cons (s : State) (x : Input) (rest : List Input) (h : s.inputs = x :: rest) :
    step s = serveInput x { s with inputs := rest } := by simp [step, h]

/-- A word on CMD that decodes runs as its command. -/
theorem execCmd_command (w : Word) (i : Instr) (s : State) (h : decode w = .command i) : execCmd w s = exec i s := by
  simp [execCmd, h]

/-- A word on CMD that does not decode records E_ILLEGAL. -/
theorem execCmd_illegal (w : Word) (why : Illegal) (s : State) (h : decode w = .illegal why) :
    execCmd w s = .next (raiseError .eIllegal s) := by
  simp [execCmd, h]

end Sys2Proof.Machine
end

