-- ==== Sys2Proof/Laws/Step.lean ====
section
/-! SUPPORT. All a step can do, said once (step_cases), and how the engine's moves and runs of steps compose. -/

namespace Sys2Proof.Machine

/-- An engine move is a step to the engine's turn. -/
theorem step_engineMoves {s s0 : State} (h : EngineMoves s s0) : step s = .next (engineTurn s0) := by
  rcases h with ⟨hi, rfl⟩ | ⟨rest, hi, rfl⟩
  · exact step_nil _ hi
  · rw [step_cons _ _ _ hi]; rfl

/-- The state an engine move acts on differs from the state before in its inputs only. -/
theorem EngineMoves.eq {s s0 : State} (h : EngineMoves s s0) : s0 = { s with inputs := s0.inputs } := by
  rcases h with ⟨_, rfl⟩ | ⟨_, _, rfl⟩ <;> rfl

/-- An engine move acts on every field of the state before but its inputs. -/
theorem EngineMoves.fields {s s0 : State} (h : EngineMoves s s0) :
    s0.h = s.h ∧ s0.v = s.v ∧ s0.alg = s.alg ∧ s0.phase = s.phase ∧ s0.busy = s.busy ∧ s0.rnd = s.rnd ∧
      s0.nblk = s.nblk ∧ s0.buf = s.buf ∧ s0.bufcnt = s.bufcnt ∧ s0.len = s.len ∧ s0.err = s.err ∧
      s0.errcode = s.errcode ∧ s0.result = s.result ∧ s0.reads = s.reads := by
  rcases h with ⟨_, rfl⟩ | ⟨_, _, rfl⟩ <;> simp

/-- H as the feed-forward of the state's algorithm leaves it. -/
def feedH (s : State) : Vector DWord 8 :=
  match s.alg with
  | .md5 => md5FeedH s.h s.v
  | .sha512 => sha512FeedH s.h s.v

/-- V as a round of the state's algorithm leaves it. -/
def roundV (s : State) : Vector DWord 8 :=
  match s.alg with
  | .md5 => (md5RoundStep s).v
  | .sha512 => (sha512RoundStep s).v

/-- All an engine's turn can do: nothing while not busy; a round; or a feed-forward that starts the second padding block,
ends a FINAL, or ends an ABSORB's block. -/
theorem engineTurn_cases (s : State) :
    (s.busy = false ∧ engineTurn s = s) ∨
    (s.busy = true ∧ s.rnd.toNat < rounds s.alg ∧ engineTurn s = { s with v := roundV s, rnd := s.rnd + 1 }) ∨
    (s.busy = true ∧ rounds s.alg ≤ s.rnd.toNat ∧ s.phase = .final ∧ s.nblk = 2 ∧
      engineTurn s = padSecond { s with h := feedH s }) ∨
    (s.busy = true ∧ rounds s.alg ≤ s.rnd.toNat ∧ s.phase = .final ∧ s.nblk ≠ 2 ∧
      engineTurn s = { s with h := feedH s, busy := false, bufcnt := 0, phase := .done, nblk := 0 }) ∨
    (s.busy = true ∧ rounds s.alg ≤ s.rnd.toNat ∧ s.phase ≠ .final ∧
      engineTurn s = { s with h := feedH s, busy := false, bufcnt := 0 }) := by
  by_cases hb : s.busy = true
  · refine .inr ?_
    rw [engineTurn_busy s hb]
    have hfeed : rounds s.alg ≤ s.rnd.toNat → engineStep s = completeBlock { s with h := feedH s } →
        (s.phase = .final ∧ s.nblk = 2 ∧ engineStep s = padSecond { s with h := feedH s }) ∨
        (s.phase = .final ∧ s.nblk ≠ 2 ∧
          engineStep s = { s with h := feedH s, busy := false, bufcnt := 0, phase := .done, nblk := 0 }) ∨
        (s.phase ≠ .final ∧ engineStep s = { s with h := feedH s, busy := false, bufcnt := 0 }) := by
      intro _ he
      rw [he]
      exact completeBlock_cases { s with h := feedH s }
    rcases engineStep_cases s with ⟨ha, hr, h⟩ | ⟨ha, hr, h⟩ | ⟨ha, hr, h⟩ | ⟨ha, hr, h⟩
    · exact .inl ⟨hb, by simpa [ha, rounds] using hr, by rw [h]; simp [roundV, ha, md5RoundStep]⟩
    · exact .inl ⟨hb, by simpa [ha, rounds] using hr, by rw [h]; simp [roundV, ha, sha512RoundStep]⟩
    all_goals
      have hr' : rounds s.alg ≤ s.rnd.toNat := by simpa [ha, rounds] using hr
      have he : engineStep s = completeBlock { s with h := feedH s } := by rw [h]; simp [feedH, ha, md5Feed, sha512Feed]
      rcases hfeed hr' he with ⟨hp, hn, e⟩ | ⟨hp, hn, e⟩ | ⟨hp, e⟩
      · exact .inr (.inl ⟨hb, hr', hp, hn, e⟩)
      · exact .inr (.inr (.inl ⟨hb, hr', hp, hn, e⟩))
      · exact .inr (.inr (.inr ⟨hb, hr', hp, e⟩))
  · have hb : s.busy = false := by simpa using hb
    exact .inl ⟨hb, engineTurn_idle s hb⟩

/-- An admitted access is 32 bits wide, aligned and inside the window (R54). -/
theorem admitted_iff (bits off : Nat) : admitted bits off = true ↔ bits = 32 ∧ off % 4 = 0 ∧ off < 0x40 := by
  simp [admitted, and_assoc]

/-- The next command, when the next input writes it to CMD. -/
theorem nextCommand_of_write {s : State} {w : Word} {rest : List Input} {i : Instr}
    (h : s.inputs = .busWrite 32 0x00 w :: rest) (hd : decode w = .command i) : nextCommand s = some i := by
  simp [nextCommand, h, admitted, hd, Decoded.command?]

/-- All a step that goes on can do: the engine's turn, a read, RESET, a write outside CMD, an illegal word, or a command. -/
theorem step_cases {s t : State} (h : step s = .next t) :
    (∃ s0, EngineMoves s s0 ∧ t = engineTurn s0) ∨
    (∃ off rest, s.inputs = .busRead 32 off :: rest ∧ admitted 32 off = true ∧
      t = busRead off { s with inputs := rest }) ∨
    (∃ rest, s.inputs = .reset :: rest ∧ t = resetState { s with inputs := rest }) ∨
    (∃ off v rest, s.inputs = .busWrite 32 off v :: rest ∧ off ≠ 0 ∧ admitted 32 off = true ∧
      t = { s with inputs := rest }) ∨
    (∃ w why rest, s.inputs = .busWrite 32 0x00 w :: rest ∧ decode w = .illegal why ∧
      t = raiseError .eIllegal { s with inputs := rest }) ∨
    (∃ w i rest, s.inputs = .busWrite 32 0x00 w :: rest ∧ decode w = .command i ∧ nextCommand s = some i ∧
      exec i { s with inputs := rest } = .next t) := by
  match hi : s.inputs with
  | [] =>
    rw [step_nil _ hi] at h
    cases h
    exact .inl ⟨s, .inl ⟨hi, rfl⟩, rfl⟩
  | .engineTurn :: rest =>
    rw [step_cons _ _ _ hi] at h
    cases h
    exact .inl ⟨_, .inr ⟨rest, hi, rfl⟩, rfl⟩
  | .busRead bits off :: rest =>
    rw [step_cons _ _ _ hi, serveInput] at h
    split at h
    · rename_i ha
      obtain ⟨rfl, -, -⟩ := (admitted_iff _ _).mp ha
      cases h
      exact .inr (.inl ⟨off, rest, rfl, ha, rfl⟩)
    · cases h
  | .reset :: rest =>
    rw [step_cons _ _ _ hi] at h
    cases h
    exact .inr (.inr (.inl ⟨rest, rfl, rfl⟩))
  | .busWrite bits off v :: rest =>
    rw [step_cons _ _ _ hi, serveInput] at h
    split at h
    · rename_i ha
      obtain ⟨rfl, -, -⟩ := (admitted_iff _ _).mp ha
      rw [busWrite] at h
      split at h
      · rename_i h0
        subst h0
        match hd : decode v with
        | .illegal why =>
          rw [execCmd_illegal _ _ _ hd] at h
          cases h
          exact .inr (.inr (.inr (.inr (.inl ⟨v, why, rest, rfl, hd, rfl⟩))))
        | .command i =>
          rw [execCmd_command _ _ _ hd] at h
          exact .inr (.inr (.inr (.inr (.inr ⟨v, i, rest, rfl, hd, nextCommand_of_write hi hd, h⟩))))
      · rename_i h0
        cases h
        exact .inr (.inr (.inr (.inl ⟨off, v, rest, rfl, h0, ha, rfl⟩)))
    · cases h

/-- All a command that goes on can do: a rejection, or the effect of its row. -/
theorem exec_next_cases {i : Instr} {s t : State} (h : exec i s = .next t) :
    (∃ code, rejection i s = some code ∧ t = raiseError code s) ∨
    (rejection i s = none ∧
      ((i = .nop ∧ t = s) ∨ (∃ alg, i = .init alg ∧ t = beginDigest alg s) ∨
        (∃ b, i = .absorb b ∧ s.bufcnt.toNat < 128 ∧ t = absorbByte b s) ∨
        (i = .final ∧ s.bufcnt.toNat < 128 ∧ t = padAndStart s) ∨
        (∃ value, ((∃ idx, i = .rdbyte idx ∨ i = .rdhex idx ∨ i = .rdb64 idx) ∨ (∃ j half, i = .rdchain j half)) ∧
          t = setResult value s) ∨
        (i = .clrerr ∧ t = clearError s))) := by
  rcases exec_cases i s with ⟨hr, he⟩ | ⟨code, hr, he⟩
  · refine .inr ⟨hr, ?_⟩
    rw [he] at h
    cases i with
    | nop => cases h; exact .inl ⟨rfl, rfl⟩
    | init alg => cases h; exact .inr (.inl ⟨alg, rfl, rfl⟩)
    | absorb b =>
      simp only [effectOf] at h
      split at h
      · cases h; exact .inr (.inr (.inl ⟨b, rfl, ‹_›, rfl⟩))
      · cases h
    | final =>
      simp only [effectOf] at h
      split at h
      · cases h; exact .inr (.inr (.inr (.inl ⟨rfl, ‹_›, rfl⟩)))
      · cases h
    | rdbyte idx => cases h; exact .inr (.inr (.inr (.inr (.inl ⟨_, .inl ⟨idx, .inl rfl⟩, rfl⟩))))
    | rdhex idx => cases h; exact .inr (.inr (.inr (.inr (.inl ⟨_, .inl ⟨idx, .inr (.inl rfl)⟩, rfl⟩))))
    | rdb64 idx => cases h; exact .inr (.inr (.inr (.inr (.inl ⟨_, .inl ⟨idx, .inr (.inr rfl)⟩, rfl⟩))))
    | rdchain j half => cases h; exact .inr (.inr (.inr (.inr (.inl ⟨_, .inr ⟨j, half, rfl⟩, rfl⟩))))
    | clrerr => cases h; exact .inr (.inr (.inr (.inr (.inr ⟨rfl, rfl⟩))))
  · rw [he] at h
    cases h
    exact .inl ⟨code, hr, rfl⟩

@[simp] theorem runSteps_zero (s : State) : runSteps 0 s = .next s := rfl

/-- One step, then the rest. -/
theorem runSteps_succ {s t : State} (n : Nat) (h : step s = .next t) : runSteps (n + 1) s = runSteps n t := by
  simp [runSteps, h]

/-- A run is a run and then another. -/
theorem runSteps_add {s t : State} (m n : Nat) (h : runSteps m s = .next t) :
    runSteps (m + n) s = runSteps n t := by
  induction m generalizing s with
  | zero => cases h; simp
  | succ m ih =>
    rw [runSteps] at h
    rw [show m + 1 + n = (m + n) + 1 by omega, runSteps]
    split at h
    · rename_i u hu
      simpa [hu] using ih h
    · cases h
    · cases h

end Sys2Proof.Machine
end

