-- ==== Sys2Proof/Laws/HostProgram.lean ====
section
/-! SUPPORT. What each move of a host's run does (30_encoding.md R79, 47_control.md R207), in terms of the machine's own
operations, and how runs compose. -/

namespace Sys2Proof.Machine

/-- An offered input is served on the state itself. -/
theorem step_offer (x : Input) (s : State) : step (s.offer x) = serveInput x s := rfl

/-- Serving an input that the machine goes on from. -/
theorem HostRun.serve_of_next {x : Input} {r : HostRun} {t : State} (todo : State → List HostOp)
    (h : serveInput x r.machine = .next t) : r.serve x todo = .next { todo := todo t, machine := t } := by
  simp only [HostRun.serve, step_offer, h]

/-- The engine's move is its turn, and the host stays where it is. -/
theorem HostRun.move_engine (r : HostRun) :
    r.move .engine = .next { r with machine := Machine.engineTurn r.machine } := rfl

/-- RESET's move resets the machine, and the host stays where it is. -/
theorem HostRun.move_reset (r : HostRun) : r.move .reset = .next { r with machine := resetState r.machine } := rfl

/-- A host with nothing left to do. -/
theorem HostRun.move_host_nil (s : State) :
    HostRun.move .host { todo := [], machine := s } = .next { todo := [], machine := s } := rfl

/-- A host's write is the command's word at CMD, once. -/
theorem HostRun.move_host_write {w : Word} {rest : List HostOp} {s t : State} (h : execCmd w s = .next t) :
    HostRun.move .host { todo := .write w :: rest, machine := s } = .next { todo := rest, machine := t } :=
  HostRun.serve_of_next _ h

/-- A host's `lw` reads its register, once. -/
theorem HostRun.move_host_read (g : ReadReg) (rest : List HostOp) (s : State) :
    HostRun.move .host { todo := .read g :: rest, machine := s } =
      .next { todo := rest, machine := busRead g.offset s } := by
  cases g <;> rfl

/-- Bit 0 of STATUS is BUSY (R35). -/
theorem statusWord_bit0 (s : State) : (statusWord s)[0] = s.busy := by
  rw [← BitVec.getLsbD_eq_getElem]
  unfold statusWord
  rw [BitVec.getLsbD_append]
  cases s.busy <;> rfl

/-- The read of a `wait` repeats it exactly while BUSY = 1. -/
theorem HostOp.again_wait (s : State) : HostOp.wait.again (busRead ReadReg.status.offset s) = s.busy := by
  simp [HostOp.again, busRead, ReadReg.offset, busReadValue, statusWord_bit0]

@[simp] theorem HostRun.run_nil (r : HostRun) : r.run [] = .next r := rfl

/-- One move, then the rest. -/
theorem HostRun.run_cons {m : Move} {r q : HostRun} (ms : List Move) (h : r.move m = .next q) :
    r.run (m :: ms) = q.run ms := by
  simp only [HostRun.run, h]

/-- A run is a run and then another. -/
theorem HostRun.run_append {ms : List Move} {r q : HostRun} (ns : List Move) (h : r.run ms = .next q) :
    r.run (ms ++ ns) = q.run ns := by
  induction ms generalizing r with
  | nil => cases h; rfl
  | cons m ms ih =>
    simp only [HostRun.run] at h
    split at h
    · rename_i u hu
      rw [List.cons_append, HostRun.run_cons _ hu]
      exact ih h
    · cases h
    · cases h

end Sys2Proof.Machine
end

