-- ==== Sys2Proof/Laws/PerInstr.lean ====
section
/-! SUPPORT. A law of every command, constructor by constructor: the word the encoder gives it lies in its row of the opcode
map (30_encoding.md R74). -/

namespace Sys2Proof.Laws.EncodeInRow

/-- The encoder's word is selected by the row of the command's mnemonic, and by no other row. -/
def Statement (i : Instr) : Prop :=
  (opcodeMap.filter fun r => r.selects (encode i)).map OpcodeRow.mnemonic = [i.mnemonic]

theorem nop : Statement .nop := by unfold Statement; decide +kernel

theorem init (alg : Alg) : Statement (.init alg) := by
  unfold Statement
  cases alg <;> decide +kernel

theorem absorb (byte : Byte) : Statement (.absorb byte) := by
  revert byte
  unfold Statement
  decide +kernel

theorem final : Statement .final := by unfold Statement; decide +kernel

/-- RDBYTE's word depends on the low eight bits of its index only, so all indexes are 256 cases. -/
theorem rdbyte (idx : Nat) : Statement (.rdbyte idx) := by
  unfold Statement
  simp only [encode, Instr.mnemonic]
  generalize BitVec.ofNat 8 idx = b
  revert b
  decide +kernel

theorem rdhex (idx : Nat) : Statement (.rdhex idx) := by
  unfold Statement
  simp only [encode, Instr.mnemonic]
  generalize BitVec.ofNat 8 idx = b
  revert b
  decide +kernel

theorem rdb64 (idx : Nat) : Statement (.rdb64 idx) := by
  unfold Statement
  simp only [encode, Instr.mnemonic]
  generalize BitVec.ofNat 8 idx = b
  revert b
  decide +kernel

theorem rdchain (j : Nat) (half : Half) : Statement (.rdchain j half) := by
  unfold Statement
  simp only [encode, Instr.mnemonic]
  generalize BitVec.ofNat 4 j = b
  revert b
  cases half <;> decide +kernel

theorem clrerr : Statement .clrerr := by unfold Statement; decide +kernel

end Sys2Proof.Laws.EncodeInRow
end

