-- ==== Sys2Proof/Tests/Slice0.lean ====
section
/-! SUPPORT. Tests: each expected value is copied from 95_test_vectors.md (the part is named at each group) or read off a
rule; then, for every obligation with hypotheses, a theorem that shows states and operands meeting them. -/

set_option Elab.async false

namespace Sys2Proof.Tests

open Sys2Proof Sys2Proof.Machine

/-! ## WellFormed: each check refuses an ill-formed term -/

theorem test_wellFormed_rdbyte : (Instr.rdbyte 255).wellFormed = true ∧ (Instr.rdbyte 256).wellFormed = false := by decide

theorem test_wellFormed_rdhex : (Instr.rdhex 255).wellFormed = true ∧ (Instr.rdhex 256).wellFormed = false := by decide

theorem test_wellFormed_rdb64 : (Instr.rdb64 255).wellFormed = true ∧ (Instr.rdb64 256).wellFormed = false := by decide

theorem test_wellFormed_rdchain :
    (Instr.rdchain 15 .hi).wellFormed = true ∧ (Instr.rdchain 16 .lo).wellFormed = false := by decide

/-! ## Decoding: words written out bit by bit (30_encoding.md R71, R72, R74; V8) -/

theorem test_decode_nop : decode 0b00000000_00000000_00000000_00000000 = .command .nop := by decide

theorem test_decode_init :
    decode 0b00000001_00000000_00000000_00000000 = .command (.init .md5) ∧
      decode 0b00000001_00000000_00000000_00000001 = .command (.init .sha512) := by decide

theorem test_decode_absorb :
    decode 0b00000010_00000000_00000000_01100001 = .command (.absorb 0x61) ∧
      decode 0b00000010_00000000_00000000_11111111 = .command (.absorb 0xFF) := by decide

theorem test_decode_final : decode 0b00000011_00000000_00000000_00000000 = .command .final := by decide

theorem test_decode_rdbyte :
    decode 0b00000100_00000000_00000000_00000000 = .command (.rdbyte 0) ∧
      decode 0b00000100_00000000_00000000_11111111 = .command (.rdbyte 255) := by decide

theorem test_decode_rdhex : decode 0b00000101_00000000_00000000_01111111 = .command (.rdhex 127) := by decide

theorem test_decode_rdb64 : decode 0b00000110_00000000_00000000_01010111 = .command (.rdb64 87) := by decide

theorem test_decode_rdchain :
    decode 0b00000111_00000000_00000000_00011111 = .command (.rdchain 15 .hi) ∧
      decode 0b00000111_00000000_00000000_00000111 = .command (.rdchain 7 .lo) := by decide

theorem test_decode_clrerr : decode 0b00001000_00000000_00000000_00000000 = .command .clrerr := by decide

theorem test_decode_mustBeZero :
    decode 0x00000001 = .illegal .mustBeZero ∧ decode 0x01000002 = .illegal .mustBeZero ∧
      decode 0x02000100 = .illegal .mustBeZero ∧ decode 0x03000001 = .illegal .mustBeZero ∧
      decode 0x07000020 = .illegal .mustBeZero ∧ decode 0x08000001 = .illegal .mustBeZero := by decide

theorem test_decode_reserved :
    decode 0x09000000 = .illegal .reservedOpcode ∧ decode 0xFF000000 = .illegal .reservedOpcode ∧
      decode 0x02010061 = .illegal .reservedField ∧ decode 0x00800000 = .illegal .reservedField := by decide

theorem test_encode :
    encode (.init .sha512) = 0x01000001 ∧ encode (.absorb 0x61) = 0x02000061 ∧ encode .final = 0x03000000 ∧
      encode (.rdhex 31) = 0x0500001F ∧ encode (.rdchain 7 .hi) = 0x07000017 ∧ encode .clrerr = 0x08000000 := by decide

theorem test_decodeTableWord :
    decodeTableWord 32 0x0700001F = some (.rdchain 15 .hi) ∧ decodeTableWord 32 0x09000000 = none ∧
      decodeTableWord 32 (0x0700001F + 2 ^ 32) = some (.rdchain 15 .hi) := by decide

/-- A number wider than a command word is no command. -/
theorem test_decodeTableWord_too_wide : decodeTableWord 40 (2 ^ 32) = none := by decide

/-! ## Primitives (V1) -/

theorem test_add : add32 0x67452301 (add32 0xD76AA478 0x80636261) = 0xBF1329DA ∧
    add64 0xFFFFFFFFFFFFFFFF 0x0000000000000001 = 0 := by decide

theorem test_rotations :
    rotl32 0x12345678 23 = 0x3C091A2B ∧ rotl32 0x00000001 31 = 0x80000000 ∧
      rotr64 0x0123456789ABCDEF 28 = 0x9ABCDEF012345678 ∧ shr64 0x0123456789ABCDEF 6 = 0x00048D159E26AF37 := by decide

theorem test_md5_mixing :
    md5F 0xFFFF0000 0xFF00FF00 0xF0F0F0F0 = 0xFF00F0F0 ∧ md5G 0xFFFF0000 0xFF00FF00 0xF0F0F0F0 = 0xFFF00F00 ∧
      md5H 0xFFFF0000 0xFF00FF00 0xF0F0F0F0 = 0xF00F0FF0 ∧ md5I 0xFFFF0000 0xFF00FF00 0xF0F0F0F0 = 0x00FFF00F := by
  decide

theorem test_sha_mixing :
    ch 0x0123456789ABCDEF 0xFEDCBA9876543210 0xF0F0F0F00F0F0F0F = 0xF0D0B09006040200 ∧
      maj 0x0123456789ABCDEF 0xFEDCBA9876543210 0xF0F0F0F00F0F0F0F = 0xF0F0F0F00F0F0F0F := by decide

theorem test_sigmas :
    bsig0 0x0123456789ABCDEF = 0xB7C57A100C7EC1AB ∧ bsig1 0x0123456789ABCDEF = 0x7703112333475567 ∧
      ssig0 0x0123456789ABCDEF = 0x6F92C77C6C4F1AA1 ∧ ssig1 0x0123456789ABCDEF = 0x70A3460DBBD4317A := by decide

/-! ## Padding (V2) -/

/-- The zero fill is 0 at r = 55 and r = 111, not one later (90_conflicts.md C7). -/
theorem test_zeroFill :
    zeroFill .md5 55 = 0 ∧ zeroFill .md5 56 = 63 ∧ zeroFill .md5 64 = 55 ∧ zeroFill .sha512 111 = 0 ∧
      zeroFill .sha512 112 = 127 ∧ zeroFill .sha512 240 = 127 := by decide

theorem test_blockCount :
    blockCount .md5 55 = 1 ∧ blockCount .md5 56 = 2 ∧ blockCount .md5 120 = 3 ∧ blockCount .sha512 111 = 1 ∧
      blockCount .sha512 112 = 2 ∧ blockCount .sha512 256 = 3 := by decide

theorem test_lenField :
    lenField .md5 55 = [0xB8, 0x01, 0, 0, 0, 0, 0, 0] ∧
      lenField .sha512 127 = [0, 0, 0, 0, 0, 0, 0, 0, 0, 0, 0, 0, 0, 0, 0x03, 0xF8] := by decide

/-! ## States the tests start from -/

/-- The state a result goes on with. -/
def nextOf : Result → Option State
  | .next t => some t
  | _ => none

theorem next_of_nextOf {r : Result} {t : State} (h : nextOf r = some t) : r = .next t := by
  cases r <;> simp_all [nextOf]

/-- The state after one input is served. -/
def after (s : State) (x : Input) : Option State := nextOf (step { s with inputs := [x] })

/-- STATUS and RESULT after a word is written to CMD, as the rows of V9 list them. -/
def afterWrite (s : State) (w : Word) : Option (Word × Word) :=
  (after s (cmdWrite w)).map fun t => (statusWord t, t.result)

/-- INIT done and `n` bytes absorbed. -/
def absorbing (alg : Alg) (n : Nat) : State :=
  { beginDigest alg State.reset with bufcnt := BitVec.ofNat 8 n, len := BitVec.ofNat 64 n }

/-- A finished digest with these chaining words. -/
def finished (alg : Alg) (h : Vector DWord 8) : State := { State.reset with alg := alg, phase := .done, h := h }

/-- A block being compressed, at this phase and round. -/
def compressing (alg : Alg) (phase : Phase) (rnd n : Nat) : State :=
  { absorbing alg n with
    phase := phase, busy := true, rnd := BitVec.ofNat 7 rnd, v := initH alg,
    nblk := if phase = .final then 1 else 0 }

/-- The padded block of "abc": its four first bytes, and the last of its length field at `last` (V2). -/
def abcBlock (last : Nat) : Vector Byte 128 :=
  Vector.ofFn fun i =>
    if i.val = 0 then 0x61
    else if i.val = 1 then 0x62
    else if i.val = 2 then 0x63
    else if i.val = 3 then 0x80
    else if i.val = last then 0x18
    else 0

/-- MD5 "abc" while its block is compressed: V after round `rnd` - 1 (V5). -/
def md5Abc (rnd : Nat) (v : Vector DWord 8) : State :=
  { compressing .md5 .final rnd 3 with buf := abcBlock 56, v := v }

/-- SHA-512 "abc" while its block is compressed (V6). -/
def shaAbc (rnd : Nat) (v : Vector DWord 8) : State :=
  { compressing .sha512 .final rnd 3 with buf := abcBlock 127, v := v }

/-- H after MD5 "abc" (V5). -/
def md5AbcH : Vector DWord 8 := #v[0x98500190, 0xB04FD23C, 0x7D3F96D6, 0x727FE128, 0, 0, 0, 0]

/-- H after SHA-512 "abc" (V6). -/
def shaAbcH : Vector DWord 8 :=
  #v[0xDDAF35A193617ABA, 0xCC417349AE204131, 0x12E6FA4E89A97EA2, 0x0A9EEEE64B55D39A,
     0x2192992A274FC1A8, 0x36BA3C23A3FEEBBD, 0x454D4423643CE80E, 0x2A9AC94FA54CA49F]

/-- The 64th MD5 byte was just absorbed (V9, commands while BUSY = 1). -/
def md5BlockFull : State := compressing .md5 .absorb 0 64

/-! ## Commands, phases and errors (V9, V7) -/

theorem test_nop : afterWrite State.reset 0x00000000 = some (0x00000000, 0) ∧
    afterWrite md5BlockFull 0x00000000 = some (0x00400011, 0) := by decide +kernel

theorem test_init : afterWrite State.reset 0x01000000 = some (0x00000010, 0) ∧
    afterWrite (finished .md5 md5AbcH) 0x01000001 = some (0x00000014, 0) := by decide +kernel

/-- INIT is accepted with ERR = 1 and does not clear it. -/
theorem test_init_keeps_error :
    afterWrite { State.reset with err := true, errcode := .eIllegal } 0x01000000 = some (0x00000112, 0) ∧
      afterWrite md5BlockFull 0x01000001 = some (0x00400213, 0) := by decide +kernel

theorem test_absorb : afterWrite (absorbing .md5 0) 0x02000061 = some (0x00010010, 0) ∧
    afterWrite (absorbing .md5 63) 0x02000061 = some (0x00400011, 0) ∧
    (after (absorbing .md5 63) (cmdWrite 0x02000061)).map (fun t => (t.len, bufByte t.buf 63)) = some (64, 0x61) := by
  decide +kernel

theorem test_absorb_rejected : afterWrite State.reset 0x02000061 = some (0x00000302, 0) ∧
    afterWrite md5BlockFull 0x02000062 = some (0x00400213, 0) ∧
    (after { absorbing .md5 63 with len := 0xFFFFFFFFFFFFFFFF } (cmdWrite 0x02000000)).map
      (fun t => (t.errcode, t.len, t.bufcnt)) = some (.eOverflow, 0xFFFFFFFFFFFFFFFF, 63) := by decide +kernel

theorem test_final : afterWrite (absorbing .md5 0) 0x03000000 = some (0x00000021, 0) ∧
    (after (absorbing .md5 55) (cmdWrite 0x03000000)).map (·.nblk) = some 1 ∧
    (after (absorbing .md5 56) (cmdWrite 0x03000000)).map (·.nblk) = some 2 := by decide +kernel

/-- The padded block of "abc", both algorithms (V2): FINAL overwrites what stood in BUF from BUFCNT on. -/
theorem test_final_padding :
    let s := fun alg => { absorbing alg 3 with
      buf := Vector.ofFn fun i => if i.val < 3 then BitVec.ofNat 8 (0x61 + i.val) else 0xAA }
    (∀ k ∈ List.range 64, ((after (s .md5) (cmdWrite 0x03000000)).map fun t => bufByte t.buf k) =
      some (bufByte (abcBlock 56) k)) ∧
    (after (s .sha512) (cmdWrite 0x03000000)).map (·.buf) = some (abcBlock 127) := by decide +kernel

theorem test_rdbyte : afterWrite (finished .md5 md5AbcH) 0x0400000F = some (0x00000030, 0x72) ∧
    afterWrite (finished .sha512 shaAbcH) 0x0400003F = some (0x00000034, 0x9F) := by decide +kernel

theorem test_rdbyte_rejected : afterWrite (finished .md5 md5AbcH) 0x04000010 = some (0x00000432, 0) ∧
    afterWrite (absorbing .md5 1) 0x040000C8 = some (0x00010312, 0) := by decide +kernel

theorem test_rdhex : afterWrite (finished .md5 md5AbcH) 0x0500001F = some (0x00000030, 0x32) ∧
    afterWrite (finished .sha512 shaAbcH) 0x0500007F = some (0x00000034, 0x66) := by decide +kernel

theorem test_rdhex_rejected : afterWrite (finished .md5 md5AbcH) 0x05000020 = some (0x00000432, 0) ∧
    afterWrite (absorbing .md5 0) 0x05000000 = some (0x00000312, 0) := by decide +kernel

theorem test_rdb64 : afterWrite (finished .md5 md5AbcH) 0x06000015 = some (0x00000030, 0x67) ∧
    afterWrite (finished .sha512 shaAbcH) 0x06000057 = some (0x00000034, 0x3D) := by decide +kernel

theorem test_rdb64_rejected : afterWrite (finished .md5 md5AbcH) 0x06000018 = some (0x00000432, 0) ∧
    afterWrite (finished .sha512 shaAbcH) 0x06000058 = some (0x00000436, 0) := by decide +kernel

theorem test_rdchain : afterWrite (absorbing .sha512 0) 0x07000007 = some (0x00000014, 0x137E2179) ∧
    afterWrite (finished .sha512 shaAbcH) 0x07000017 = some (0x00000034, 0x2A9AC94F) := by decide +kernel

theorem test_rdchain_rejected : afterWrite (absorbing .md5 0) 0x07000010 = some (0x00000412, 0) ∧
    afterWrite (absorbing .sha512 0) 0x07000008 = some (0x00000416, 0) := by decide +kernel

theorem test_clrerr :
    afterWrite { State.reset with err := true, errcode := .eIllegal } 0x08000000 = some (0x00000000, 0) ∧
      afterWrite md5BlockFull 0x08000000 = some (0x00400213, 0) := by decide +kernel

theorem test_illegal_word : afterWrite State.reset 0x09000000 = some (0x00000102, 0) ∧
    afterWrite md5BlockFull 0x09000000 = some (0x00400113, 0) := by decide +kernel

/-! ## Rounds and feed-forwards (V5, V6) -/

/-- MD5 "abc", rounds 0 and 63. -/
theorem test_md5_round :
    (after (md5Abc 0 (initH .md5)) .engineTurn).map (·.v) =
      some #v[0x10325476, 0xD6D117B4, 0xEFCDAB89, 0x98BADCFE, 0, 0, 0, 0] ∧
    (after (md5Abc 63 #v[0x7327D604, 0xE484B9D8, 0x624D8CB2, 0x310ADE8F, 0, 0, 0, 0]) .engineTurn).map (·.v) =
      some #v[0x310ADE8F, 0xC08226B3, 0xE484B9D8, 0x624D8CB2, 0, 0, 0, 0] := by decide +kernel

/-- MD5 "abc": the feed-forward ends the digest. -/
theorem test_md5_feed :
    (after (md5Abc 64 #v[0x310ADE8F, 0xC08226B3, 0xE484B9D8, 0x624D8CB2, 0, 0, 0, 0]) .engineTurn).map
      (fun t => (t.h, statusWord t)) = some (md5AbcH, 0x00000030) := by decide +kernel

/-- SHA-512 "abc", round 16, the first that uses an expanded word. -/
theorem test_sha512_round :
    (after
        (shaAbc 16
          #v[0x0AE07C86B1181C75, 0xFA967EED85A08028, 0x44249631255D2CA0, 0x5E41214388186C14,
             0xA77B7C035DD4C161, 0x874BFE5F6AAE9F2F, 0x860ACF9EFFBA6F61, 0xCDF3BFF2883FC9D9])
        .engineTurn).map (fun t => (regAt t.v 0, regAt t.v 1, regAt t.v 4, regAt t.v 7)) =
      some (0xCAF81A425D800537, 0x0AE07C86B1181C75, 0x2DEECC6B39D64D78, 0x860ACF9EFFBA6F61) := by decide +kernel

/-- SHA-512 "abc": the feed-forward ends the digest. -/
theorem test_sha512_feed :
    (after
        (shaAbc 80
          #v[0x73A54F399FA4B1B2, 0x10D9C4C4295599F6, 0xD67806DB8B148677, 0x654EF9ABEC389CA9,
             0xD08446AA79693ED7, 0x9BB4D39778C07F9E, 0x25C96A7768FB2AA3, 0xCEB9FC3691CE8326])
        .engineTurn).map (fun t => (t.h, statusWord t)) = some (shaAbcH, 0x00000034) := by decide +kernel

/-- The schedule of the padded block of "abc" at its first and a late expanded word (V4). -/
theorem test_schedule :
    shaWord (blockOf .sha512 (abcBlock 127)) 17 = 0x00030000000000C0 ∧
      shaWord (blockOf .sha512 (abcBlock 127)) 79 = 0x92AEEED1A7BCF7D2 := by decide +kernel

/-! ## The register window and RESET (R52 to R54; V10) -/

theorem test_busRead :
    (after (absorbing .md5 3) (.busRead 32 0x0C)).map (·.reads) = some [3] ∧
      (after (absorbing .md5 3) (.busRead 32 0x04)).map (·.reads) = some [0x00030010] ∧
      (after (absorbing .md5 3) (.busRead 32 0x00)).map (·.reads) = some [0] ∧
      (after (absorbing .md5 3) (.busRead 32 0x3C)).map (·.reads) = some [0] := by decide +kernel

theorem test_ignored_write :
    (after (absorbing .md5 3) (.busWrite 32 0x0C 0xFFFFFFFF)) = some (absorbing .md5 3) := by decide +kernel

theorem test_refused_accesses :
    (after State.reset (.busRead 16 0x04)) = none ∧ (after State.reset (.busRead 32 0x06)) = none ∧
      (after State.reset (.busWrite 32 0x40 0)) = none := by decide +kernel

theorem test_reset :
    (after md5BlockFull .reset).map statusWord = some 0 ∧
      (after md5BlockFull .reset).map (fun t => (t.len, t.rnd, t.phase)) = some (0, 0, .idle) := by decide +kernel

/-! ## The host's side (R78, R80, R226, R189) -/

theorem test_assemble :
    assemble [.name "absorb", .char 0x61] = some 0x02000061 ∧ assemble [.name "rdchain", .num 7, .comma, .name "hi"] = some 0x07000017 ∧
      assemble [.name "rdhex", .num 256] = none := by decide

/-- A line of P1 and one of P5 as they are printed, with the word column and the effect, and an operand the assembler
refuses. -/
theorem test_lineOps :
    lineOps .md5 ['s', 'w', ' ', 'C', 'M', 'D', ',', ' ', 'a', 'b', 's', 'o', 'r', 'b', ' ', '\'', 'a', '\'', ' ',
        '0', 'x', '0', '2', '0', '0', '0', '0', '6', '1', ' ', ';', ' ', 'B'] = some [.write 0x02000061] ∧
      lineOps .md5 ['s', 'w', ' ', 'C', 'M', 'D', ',', ' ', 'r', 'd', 'c', 'h', 'a', 'i', 'n', ' ', '0', ',', ' ',
        'h', 'i', ' ', ';', ' ', 'H'] = some [.write 0x07000010] ∧
      lineOps .md5 ['s', 'w', ' ', 'C', 'M', 'D', ',', ' ', 'a', 'b', 's', 'o', 'r', 'b', ' ', '2', '5', '6'] =
        none := by decide +kernel

/-- The word column: of a command without an operand, of one with an operand, of a raw word (P4), and one that is not the
word of its line. -/
theorem test_printedWord :
    printedWord [.name "final", .num 0x03000000] = some 0x03000000 ∧
      printedWord [.name "rdchain", .num 3, .num 0x07000003] = some 0x07000003 ∧
      printedWord [.num 0x09000000, .num 0x09000000] = some 0x09000000 ∧
      printedWord [.name "rdhex", .num 1, .num 0x05000000] = none := by decide

/-- The euro sign's three bytes; a lone surrogate has no encoding, and no ABSORB follows. -/
theorem test_utf8 : utf8Char 0x20AC = some [0xE2, 0x82, 0xAC] ∧ utf8Char 0x1F600 = some [0xF0, 0x9F, 0x98, 0x80] ∧
    HostLine.expand (.absorbs [0x61, 0xD800]) = none := by decide

theorem test_digestProgram :
    digestProgram .md5 .hex [0x61] = [.sw (.init .md5), .absorbw 0x61, .finalw, .readhex .md5] ∧
      HostLine.expand (.absorbs [0x61, 0x62]) = some [.write 0x02000061, .wait, .write 0x02000062, .wait] ∧
      (programOps (digestProgram .md5 .hex [0x61])).map (·.take 7) =
        some [.write 0x01000000, .write 0x02000061, .wait, .write 0x03000000, .wait, .write 0x05000000, .read .result] := by
  decide

/-- What is left of a host's program and what its reads returned, after some moves. -/
def afterMoves (ms : List Move) (r : HostRun) : Option (List HostOp × List Word) :=
  match r.run ms with
  | .next q => some (q.todo, q.machine.reads)
  | _ => none

/-- `wait` (R79): a read with BUSY = 1 repeats it, the read after the feed-forward ends it; P4's RDHEX, written with no wait,
is E_BUSY (the STATUS values are V9's). -/
theorem test_wait :
    afterMoves [.host, .host, .engine, .host, .host] { todo := [.wait, .read .status], machine := compressing .md5 .absorb 64 64 } =
      some ([], [0x00400011, 0x00400011, 0x00000010, 0x00000010]) ∧
    afterMoves [.host, .host] { todo := [.wait, .read .status], machine := compressing .md5 .absorb 64 64 } =
      some ([.wait, .read .status], [0x00400011, 0x00400011]) ∧
    afterMoves [.host, .host] { todo := [.write 0x05000000, .read .status], machine := compressing .md5 .absorb 64 64 } =
      some ([], [0x00400213]) := by decide +kernel

/-- The base64 text of MD5 "abc" (L1 S7) decodes to its digest (L1 S9). -/
theorem test_b64Decode :
    (b64Decode (b64Text (digestBytes .md5 md5AbcH))) = some (digestBytes .md5 md5AbcH) ∧
      (b64Text (digestBytes .md5 md5AbcH)).take 4 = [0x6B, 0x41, 0x46, 0x51] := by decide +kernel

/-! ## Witnesses: states and operands that meet the hypotheses of the obligations -/

theorem meets_DecodeEncodeRoundTrip :
    (Instr.rdbyte 255).WellFormed ∧ (Instr.rdchain 15 .hi).WellFormed ∧ decode 0x0700001F = .command (.rdchain 15 .hi) := by
  decide

theorem meets_OpcodeRowsDisjoint :
    ∃ r ∈ opcodeMap, (0x0700001F : Word) &&& r.mask = r.pattern := by decide

theorem meets_AssemblerAgreesWithDecoder :
    (Instr.rdhex 255).WellFormed ∧ ¬ (Instr.rdhex 256).WellFormed ∧ ¬ (Instr.rdchain 16 .lo).WellFormed ∧
      assemble [.name "rdchain", .num 15] = some 0x0700000F ∧ assemble [.name "rdchain", .num 16] = none ∧
      assemble [.name "absorb", .char 0xFF] = some 0x020000FF := by decide

theorem meets_StepRunsDecodedCommand :
    (∃ s : State, s.inputs = .busWrite 32 0x00 0x020000FF :: [] ∧ decode 0x020000FF = .command (.absorb 0xFF)) ∧
      decodeTableWord 32 0x02000000 = some (.absorb 0) :=
  ⟨⟨{ State.reset with inputs := [.busWrite 32 0x00 0x020000FF] }, rfl, by decide⟩, by decide⟩

theorem meets_IllegalWordOnlyRecordsError :
    (∃ s : State, s.inputs = .busWrite 32 0x00 0x09000000 :: []) ∧
      (∀ r ∈ opcodeMap, ¬ ((0x09000000 : Word) &&& r.mask = r.pattern)) ∧
      (∀ r ∈ opcodeMap, ¬ ((0x00010000 : Word) &&& r.mask = r.pattern)) ∧
      0x09 ≤ ((0x09000000 : Word).extractLsb' 24 8).toNat ∧ (0x00010000 : Word).extractLsb' 16 8 ≠ 0 :=
  ⟨⟨{ State.reset with inputs := [.busWrite 32 0x00 0x09000000] }, rfl⟩, by decide, by decide, by decide, by decide⟩

/-- RejectsIllegalForms: the lowest and the highest must-be-zero bit of each opcode. -/
theorem meets_RejectsIllegalForms :
    ∀ p ∈ [(0x00, 0), (0x01, 1), (0x02, 8), (0x03, 0), (0x04, 8), (0x05, 8), (0x06, 8), (0x07, 5), (0x08, 0)],
      ∀ bit ∈ [p.2, 23],
        let w : Word := (BitVec.ofNat 32 p.1 <<< 24) ||| (1#32 <<< bit)
        w.extractLsb' 24 8 = BitVec.ofNat 8 p.1 ∧ w.extractLsb' p.2 (24 - p.2) ≠ 0 := by decide

theorem meets_ErrorRecordIsStickyFirst :
    (∃ s : State, s.err = true) ∧ ∃ s : State, s.err = false :=
  ⟨⟨{ State.reset with err := true, errcode := .eBusy }, rfl⟩, ⟨State.reset, rfl⟩⟩

theorem meets_ChecksInPriorityOrder :
    decode 0x00000001 = .illegal .mustBeZero ∧ (md5BlockFull.busy = true ∧ Instr.rdhex 0 ≠ .nop) ∧
      (State.reset.busy = false ∧ legalPhase (.rdbyte 200) State.reset.phase = false) ∧
      (let s := finished .md5 md5AbcH
       s.busy = false ∧ legalPhase (.rdbyte 16) s.phase = true ∧ inRange (.rdbyte 16) s.alg = false) ∧
      (let s := { absorbing .md5 63 with len := 0xFFFFFFFFFFFFFFFF }
       s.busy = false ∧ s.phase = .absorb ∧ s.len = 0xFFFFFFFFFFFFFFFF) ∧
      rejection (.rdbyte 16) (finished .md5 md5AbcH) = some .eRange := by decide +kernel

/-- Reads and writes at the lowest and the highest admitted offset. -/
theorem meets_BusReadReturnsRegister :
    ∀ off ∈ [0x00, 0x04, 0x10, 0x14, 0x3C],
      ∃ s : State, s.inputs = .busRead 32 off :: [] ∧ off % 4 = 0 ∧ off < 0x40 := by
  intro off h
  refine ⟨{ State.reset with inputs := [.busRead 32 off] }, rfl, ?_⟩
  revert h off
  decide

theorem meets_StatusFields : ∃ s : State, s.inputs = .busWrite 32 0x04 0xFFFFFFFF :: [] :=
  ⟨{ State.reset with inputs := [.busWrite 32 0x04 0xFFFFFFFF] }, rfl⟩

theorem meets_WriteReachesOnlyCmd :
    ∀ off ∈ [0x00, 0x04, 0x3C], ∃ s : State, s.inputs = .busWrite 32 off 0x02000061 :: [] ∧ off % 4 = 0 ∧ off < 0x40 := by
  intro off h
  refine ⟨{ State.reset with inputs := [.busWrite 32 off 0x02000061] }, rfl, ?_⟩
  revert h off
  decide

theorem meets_OtherAccessesRefused :
    ¬ (16 = 32 ∧ 4 % 4 = 0 ∧ 4 < 0x40) ∧ ¬ (32 = 32 ∧ 0x3E % 4 = 0 ∧ 0x3E < 0x40) ∧
      ¬ (32 = 32 ∧ 0x40 % 4 = 0 ∧ 0x40 < 0x40) ∧ (∃ s : State, s.inputs = .busRead 16 4 :: []) ∧
      (∃ s : State, s.inputs = .busWrite 32 0x40 0 :: []) ∧ ∃ s : State, s.inputs = .busRead 32 0x3C :: [] :=
  ⟨by decide, by decide, by decide, ⟨{ State.reset with inputs := [.busRead 16 4] }, rfl⟩,
    ⟨{ State.reset with inputs := [.busWrite 32 0x40 0] }, rfl⟩, ⟨{ State.reset with inputs := [.busRead 32 0x3C] }, rfl⟩⟩

theorem meets_ResetSetsEveryElement : ∃ s : State, s.inputs = .reset :: [] ∧ s.busy = true ∧ s.phase = .absorb :=
  ⟨{ md5BlockFull with inputs := [.reset] }, rfl, rfl, rfl⟩

/-- The round statements: the first and the last round, taken from the schedule or by the engine alone. -/
theorem meets_Md5RoundStep :
    ∀ rnd ∈ [0, 15, 16, 63], ∃ s s0 : State,
      EngineMoves s s0 ∧ s.busy = true ∧ s.alg = .md5 ∧ s.rnd.toNat = rnd ∧ s.rnd.toNat < 64 := by
  intro rnd h
  refine ⟨md5Abc rnd (initH .md5), md5Abc rnd (initH .md5), .inl ⟨rfl, rfl⟩, rfl, rfl, ?_⟩
  revert h rnd
  decide +kernel

theorem meets_Sha512RoundStep :
    ∀ rnd ∈ [0, 15, 16, 79], ∃ s s0 : State,
      EngineMoves s s0 ∧ s.busy = true ∧ s.alg = .sha512 ∧ s.rnd.toNat = rnd ∧ s.rnd.toNat < 80 := by
  intro rnd h
  refine ⟨{ shaAbc rnd (initH .sha512) with inputs := [.engineTurn] }, shaAbc rnd (initH .sha512),
    .inr ⟨[], rfl, rfl⟩, rfl, rfl, ?_⟩
  revert h rnd
  decide +kernel

/-- The feed-forward statements, each clause of CompletesBlock: a second padding block to come, the last block of a FINAL,
a block of an ABSORB. -/
theorem meets_Md5FeedForward :
    ∀ p ∈ [(Phase.final, (2 : BitVec 2)), (.final, 1), (.absorb, 0)], ∃ s s0 : State,
      EngineMoves s s0 ∧ s.busy = true ∧ s.alg = .md5 ∧ s.rnd.toNat = 64 ∧ s0.phase = p.1 ∧ s0.nblk = p.2 := by
  intro p _
  exact ⟨{ compressing .md5 p.1 64 56 with nblk := p.2 }, _, .inl ⟨rfl, rfl⟩, rfl, rfl, rfl, rfl, rfl⟩

theorem meets_Sha512FeedForward :
    ∀ p ∈ [(Phase.final, (2 : BitVec 2)), (.final, 1), (.absorb, 0)], ∃ s s0 : State,
      EngineMoves s s0 ∧ s.busy = true ∧ s.alg = .sha512 ∧ s.rnd.toNat = 80 ∧ s0.phase = p.1 ∧ s0.nblk = p.2 := by
  intro p _
  exact ⟨{ compressing .sha512 p.1 80 112 with nblk := p.2 }, _, .inl ⟨rfl, rfl⟩, rfl, rfl, rfl, rfl, rfl⟩

theorem meets_EngineHasNoStepWithoutBusy : ∃ s s0 : State, EngineMoves s s0 ∧ s.busy = false :=
  ⟨State.reset, State.reset, .inl ⟨rfl, rfl⟩, rfl⟩

/-- A round, and a command written while busy; then a host access in the state whose engine move is the one excepted. -/
theorem meets_BufStableDuringCompression :
    ∀ xs ∈ [[], [cmdWrite 0x02000061]], ∃ s t : State, s.inputs = xs ∧
      s.busy = true ∧ step s = .next t ∧ s.inputs.head? ≠ some .reset ∧
      ¬ ((∃ s0, EngineMoves s s0) ∧ rounds s.alg ≤ s.rnd.toNat ∧ s.phase = .final ∧ s.nblk = 2) := by
  intro xs h
  refine ⟨{ md5BlockFull with inputs := xs }, ((nextOf (step { md5BlockFull with inputs := xs })).getD State.reset),
    rfl, rfl, ?_⟩
  rcases List.mem_cons.mp h with rfl | h
  · exact ⟨next_of_nextOf rfl, by decide, fun h => absurd h.2.1 (by decide +kernel)⟩
  · obtain rfl := List.mem_singleton.mp h
    exact ⟨next_of_nextOf rfl, by decide, fun h => absurd h.2.1 (by decide +kernel)⟩

theorem meets_BufStableDuringCompression_hostAccess :
    ∃ s t : State, s.busy = true ∧ step s = .next t ∧ s.inputs.head? ≠ some .reset ∧ rounds s.alg ≤ s.rnd.toNat ∧
      s.phase = .final ∧ s.nblk = 2 ∧ ¬ ∃ s0, EngineMoves s s0 := by
  refine ⟨{ compressing .md5 .final 64 56 with nblk := 2, inputs := [.busRead 32 4] }, _, rfl, next_of_nextOf rfl,
    by decide, by decide +kernel, rfl, rfl, ?_⟩
  rintro ⟨_, ⟨h, _⟩ | ⟨_, h, _⟩⟩ <;> cases h

theorem meets_BlockRunIsMd5Compress : (absorbing .md5 64).alg = .md5 ∧ (absorbing .md5 64).inputs = [] := ⟨rfl, rfl⟩

theorem meets_BlockRunIsSha512Compress : (absorbing .sha512 128).alg = .sha512 ∧ (absorbing .sha512 128).inputs = [] :=
  ⟨rfl, rfl⟩

/-- The statements on numbers alone: each range at both of its ends. -/
theorem meets_RotationsRotate : (∀ k ∈ [1, 31], 1 ≤ k ∧ k ≤ 31) ∧ ∀ n ∈ [1, 63], 1 ≤ n ∧ n ≤ 63 := by decide

theorem meets_ShaScheduleRecurrence : (∀ t ∈ [0, 15], t < 16) ∧ ∀ t ∈ [16, 79], 16 ≤ t ∧ t < 80 := by decide

theorem meets_Md5TablesAsListed : State.reset.busy = false ∧ (∀ i ∈ [0, 3], i < 4) ∧ ∀ t ∈ [0, 63], t < 64 :=
  ⟨rfl, by decide, by decide⟩

theorem meets_tables :
    (∀ i ∈ [0, 7], i < 8) ∧ (∀ t ∈ [0, 79], t < 80) ∧ (∀ t ∈ [0, 63], t < 64) ∧ (∀ j ∈ [0, 15], j < 16) := by decide

theorem meets_byte_order :
    (∀ k ∈ [0, 3], k < 4) ∧ (∀ n ∈ [1, 63], 1 ≤ n ∧ n ≤ 63) ∧ (∀ k ∈ [0, 7], k < 8) ∧ (∀ i ∈ [0, 31], i < 32) ∧ ∀ i ∈ [0, 63], i < 64 := by decide

/-- LengthFieldBytes: the longest message, whose SHA-512 field has bits above 64. -/
theorem meets_LengthFieldBytes : 2 ^ 64 - 1 < 2 ^ 64 ∧ byteAt (lenField .sha512 (2 ^ 64 - 1)) 7 = 0x07 := by decide

/-- PaddedMessageShape: an index in the zero fill. -/
theorem meets_PaddedMessageShape :
    ([0x61] : List Byte).length < 2 ∧ 2 < blockCount .md5 1 * blockSize .md5 - lenFieldSize .md5 := by decide

/-- A digest-sized byte sequence, and the character indexes where the clauses of TextCharactersInAlphabet meet. -/
theorem meets_TextCharactersInAlphabet :
    ∀ i ∈ [0, 21, 22, 23], (digestBytes .md5 md5AbcH).length = digestLen .md5 ∧ i < b64Len .md5 := by decide +kernel

/-- INIT and CLRERR, each clause: a busy state, and states that are not busy in every phase. -/
theorem meets_NopChangesNothing : md5BlockFull.busy = true ∧ Instr.rdhex 0 ≠ .nop := ⟨rfl, by decide⟩

theorem meets_InitBeginsDigest : md5BlockFull.busy = true ∧
    ∀ s ∈ [State.reset, absorbing .md5 0, finished .md5 md5AbcH], s.busy = false :=
  ⟨rfl, by decide +kernel⟩

theorem meets_ClrerrClearsErrorRecord : md5BlockFull.busy = true ∧
    ∃ s : State, s.busy = false ∧ s.err = true ∧ s.errcode = .eIllegal :=
  ⟨rfl, ⟨{ State.reset with err := true, errcode := .eIllegal }, rfl, rfl, rfl⟩⟩

/-- AbsorbTakesByte, each clause: a wrong phase, LEN at its limit, and BUFCNT at both ends and at the block's last byte. -/
theorem meets_AbsorbTakesByte :
    md5BlockFull.busy = true ∧ (State.reset.busy = false ∧ State.reset.phase ≠ .absorb) ∧
      (∃ s : State, s.busy = false ∧ s.phase = .absorb ∧ s.len = 0xFFFFFFFFFFFFFFFF) ∧
      ∀ p ∈ [(Alg.md5, 0), (.md5, 63), (.sha512, 63), (.sha512, 127)],
        let s := absorbing p.1 p.2
        s.busy = false ∧ s.phase = .absorb ∧ s.len ≠ 0xFFFFFFFFFFFFFFFF ∧ s.bufcnt.toNat < 128 :=
  ⟨rfl, by decide +kernel, ⟨{ absorbing .md5 63 with len := 0xFFFFFFFFFFFFFFFF }, rfl, rfl, rfl⟩, by decide +kernel⟩

theorem meets_BufferIndexFault :
    (let s := absorbing .sha512 128
     s.busy = false ∧ s.phase = .absorb ∧ s.len ≠ 0xFFFFFFFFFFFFFFFF ∧ 128 ≤ s.bufcnt.toNat) ∧
      exec (.absorb 0) (absorbing .sha512 128) = .fault .bufIndexBeyondBuffer :=
  ⟨by decide +kernel, by rfl⟩

/-- FinalPadsAndStarts, each clause, with BUFCNT at 0, at the longest that fits, just beyond, and at BS - 1. -/
theorem meets_FinalPadsAndStarts :
    md5BlockFull.busy = true ∧ (State.reset.busy = false ∧ State.reset.phase ≠ .absorb) ∧
      ∀ p ∈ [(Alg.md5, 0), (.md5, 55), (.md5, 56), (.md5, 63), (.sha512, 111), (.sha512, 112), (.sha512, 127)],
        let s := absorbing p.1 p.2
        s.busy = false ∧ s.phase = .absorb ∧ s.bufcnt.toNat < blockSize s.alg := by decide +kernel

/-- The read-out statements, each clause: a wrong phase, and DONE under either algorithm at the last index in range and the
first out of it. -/
theorem meets_RdbyteReadsDigestByte :
    (md5BlockFull.busy = true ∧ (absorbing .md5 0).busy = false ∧ (absorbing .md5 0).phase ≠ .done) ∧
      (∀ p ∈ [(Alg.md5, 15, 16), (.sha512, 63, 64)],
        let s := finished p.1 md5AbcH
        s.busy = false ∧ s.phase = .done ∧ inRange (.rdbyte p.2.1) s.alg = true ∧ inRange (.rdbyte p.2.2) s.alg = false) := by
  decide +kernel

theorem meets_RdhexReadsHexDigit :
    (md5BlockFull.busy = true ∧ (absorbing .md5 0).busy = false ∧ (absorbing .md5 0).phase ≠ .done) ∧
    ∀ p ∈ [(Alg.md5, 31, 32), (.sha512, 127, 128)],
      let s := finished p.1 md5AbcH
      s.busy = false ∧ s.phase = .done ∧ inRange (.rdhex p.2.1) s.alg = true ∧ inRange (.rdhex p.2.2) s.alg = false := by
  decide +kernel

theorem meets_Rdb64ReadsBase64Character :
    (md5BlockFull.busy = true ∧ (absorbing .md5 0).busy = false ∧ (absorbing .md5 0).phase ≠ .done) ∧
    ∀ p ∈ [(Alg.md5, 23, 24), (.sha512, 87, 88)],
      let s := finished p.1 md5AbcH
      s.busy = false ∧ s.phase = .done ∧ inRange (.rdb64 p.2.1) s.alg = true ∧ inRange (.rdb64 p.2.2) s.alg = false := by
  decide +kernel

theorem meets_RdchainReadsChainingWord :
    md5BlockFull.busy = true ∧ (State.reset.busy = false ∧ State.reset.phase ≠ .absorb ∧ State.reset.phase ≠ .done) ∧
      (∀ s ∈ [absorbing .md5 0, finished .md5 md5AbcH],
        s.busy = false ∧ (s.phase = .absorb ∨ s.phase = .done) ∧ s.alg = .md5 ∧ 3 < 4 ∧ 4 ≤ 4 ∧ Half.lo = .lo) ∧
      (∀ s ∈ [absorbing .sha512 0, finished .sha512 shaAbcH],
        s.busy = false ∧ (s.phase = .absorb ∨ s.phase = .done) ∧ s.alg = .sha512 ∧ 7 < 8 ∧ 8 ≤ 8) := by decide +kernel

theorem meets_CommandFrames :
    ∀ p ∈ [(Instr.nop, State.reset), (.clrerr, State.reset), (.rdbyte 15, finished .md5 md5AbcH),
        (.rdhex 0, finished .md5 md5AbcH), (.rdb64 0, finished .md5 md5AbcH), (.rdchain 3 .lo, finished .md5 md5AbcH),
        (.init .sha512, State.reset), (.absorb 0x61, absorbing .md5 63), (.final, absorbing .md5 0),
        (.final, absorbing .md5 63), (.final, State.reset)],
      ∃ t, exec p.1 p.2 = .next t := by
  intro p h
  have hs : (nextOf (exec p.1 p.2)).isSome = true := by
    revert h p
    decide +kernel
  obtain ⟨t, ht⟩ := Option.isSome_iff_exists.mp hs
  exact ⟨t, next_of_nextOf ht⟩

/-- A step of the machine that goes on and changes what `f` reads, from what is before to what is after. -/
theorem step_changes {α : Type} (f : State → α) (s : State) (x y : α) (hx : f s = x)
    (hy : (nextOf (step s)).map f = some y) : ∃ t, step s = .next t ∧ f s = x ∧ f t = y := by
  obtain ⟨t, ht, hf⟩ := Option.map_eq_some_iff.mp hy
  exact ⟨t, next_of_nextOf ht, hx, hf⟩

theorem meets_AlgWriters : ∃ s t : State, step s = .next t ∧ s.alg = .md5 ∧ t.alg = .sha512 :=
  ⟨{ State.reset with inputs := [cmdWrite 0x01000001] },
    step_changes (·.alg) _ .md5 .sha512 (by decide +kernel) (by decide +kernel)⟩

theorem meets_PhaseTransitions :
    (∃ s t : State, step s = .next t ∧ s.phase = .absorb ∧ t.phase = .final) ∧
      ∃ s t : State, step s = .next t ∧ s.phase = .final ∧ t.phase = .done :=
  ⟨⟨{ absorbing .md5 0 with inputs := [cmdWrite 0x03000000] },
      step_changes (·.phase) _ .absorb .final (by decide +kernel) (by decide +kernel)⟩,
    ⟨compressing .md5 .final 64 0, step_changes (·.phase) _ .final .done (by decide +kernel) (by decide +kernel)⟩⟩

theorem meets_BusyTransitions :
    (∃ s t : State, step s = .next t ∧ s.busy = false ∧ t.busy = true) ∧
      ∃ s t : State, step s = .next t ∧ s.busy = true ∧ t.busy = false :=
  ⟨⟨{ absorbing .sha512 127 with inputs := [cmdWrite 0x02000061] },
      step_changes (·.busy) _ false true (by decide +kernel) (by decide +kernel)⟩,
    ⟨compressing .md5 .absorb 64 64, step_changes (·.busy) _ true false (by decide +kernel) (by decide +kernel)⟩⟩

theorem meets_ChainingRegisterWriters :
    ∃ s t : State, step s = .next t ∧ regAt s.h 0 = 0x67452301 ∧ regAt t.h 0 = 0xCE8A4602 :=
  ⟨compressing .md5 .absorb 64 64,
    step_changes (fun s => regAt s.h 0) _ 0x67452301 0xCE8A4602 (by decide +kernel) (by decide +kernel)⟩

theorem meets_ErrorRecordWriters :
    (∃ s t : State, step s = .next t ∧ s.err = false ∧ t.err = true) ∧
      ∃ s t : State, step s = .next t ∧ s.err = true ∧ t.err = false :=
  ⟨⟨{ State.reset with inputs := [cmdWrite 0x03000000] },
      step_changes (·.err) _ false true (by decide +kernel) (by decide +kernel)⟩,
    ⟨{ State.reset with err := true, errcode := .eBusy, inputs := [cmdWrite 0x08000000] },
      step_changes (·.err) _ true false (by decide +kernel) (by decide +kernel)⟩⟩

theorem meets_ResultWriters : ∃ s t : State, step s = .next t ∧ s.result = 0 ∧ t.result = 0x90 :=
  ⟨{ finished .md5 md5AbcH with inputs := [cmdWrite 0x04000000] },
    step_changes (·.result) _ 0 0x90 (by decide +kernel) (by decide +kernel)⟩

theorem meets_LengthCounterWriters :
    ∃ s t : State, step s = .next t ∧ s.len = 0xFFFFFFFFFFFFFFFE ∧ t.len = 0xFFFFFFFFFFFFFFFF :=
  ⟨{ absorbing .md5 62 with len := 0xFFFFFFFFFFFFFFFE, inputs := [cmdWrite 0x02000061] },
    step_changes (·.len) _ 0xFFFFFFFFFFFFFFFE 0xFFFFFFFFFFFFFFFF (by decide +kernel) (by decide +kernel)⟩

/-- The invariant, part by part, so that each part is decided alone. -/
theorem inv_of_parts {s : State} (h1 : s.BusyPhases) (h2 : s.AbsorbCount) (h3 : s.PaddingBlocks) (h4 : s.OtherCount)
    (h5 : s.RoundCount) (h6 : s.Md5Widths) (h7 : s.ErrRecord) : s.Inv :=
  ⟨h1, h2, h3, h4, h5, h6, h7⟩

/-- A state of the invariant in each phase: absorbing, compressing an absorbed block, compressing the padding (its last
block, and one with a second to come), and done. -/
theorem meets_Inv_absorbing : (absorbing .md5 63).Inv := by
  apply inv_of_parts <;> decide +kernel

theorem meets_Inv_block : md5BlockFull.Inv := by
  apply inv_of_parts <;> decide +kernel

theorem meets_Inv_final : (compressing .md5 .final 64 55).Inv := by
  apply inv_of_parts <;> decide +kernel

theorem meets_Inv_secondBlock : ({ compressing .md5 .final 64 56 with nblk := 2 } : State).Inv := by
  apply inv_of_parts <;> decide +kernel

theorem meets_Inv_done : (finished .md5 md5AbcH).Inv := by
  apply inv_of_parts <;> decide +kernel

/-- InvariantKeptByEveryStep: a state of the invariant whose step goes on. -/
theorem meets_InvariantKeptByEveryStep :
    ∃ s t : State, s.Inv ∧ step s = .next t ∧ s.phase = .final ∧ t.phase = .done := by
  obtain ⟨t, ht, hp, hq⟩ :=
    step_changes (·.phase) (compressing .md5 .final 64 55) .final .done (by decide +kernel) (by decide +kernel)
  exact ⟨_, t, meets_Inv_final, ht, hp, hq⟩

/-- UnspecifiedStateNeverRead: two states that differ in V, RND and BUF beyond the bytes absorbed, all unspecified there. -/
theorem meets_UnspecifiedStateNeverRead :
    ∃ s t : State, s.Inv ∧ SameLive s t ∧ s.v ≠ t.v ∧ s.rnd ≠ t.rnd ∧ bufByte s.buf 63 ≠ bufByte t.buf 63 := by
  refine ⟨absorbing .md5 63, { absorbing .md5 63 with v := initH .sha512, rnd := 80, buf := putByte 63 0xFF State.reset.buf },
    meets_Inv_absorbing, ⟨rfl, rfl, rfl, rfl, rfl, rfl, rfl, rfl, rfl, rfl, rfl, fun _ => rfl, ?_, ?_⟩, ?_⟩
  · intro h
    exact absurd h (by decide +kernel)
  · intro k hk
    have hlive : liveBytes (absorbing .md5 63) = 63 := by decide +kernel
    rw [hlive] at hk
    revert hk k
    decide +kernel
  · decide +kernel

/-- A gap of engine turns. -/
def turns (n : Nat) : List Input := List.replicate n .engineTurn

/-- The digest scripts: the empty message, and one byte with every kind of harmless input around it. -/
theorem meets_DigestScriptComputesDigest :
    (State.reset.busy = false ∧ gapsOk harmless .md5 [] [] (turns 130)) ∧
      gapsOk harmless .sha512 [.busRead 32 0x04, cmdWrite 0x00000000, cmdWrite 0x07000000, cmdWrite 0x08000000]
        [(0x61, [cmdWrite 0x05000000, cmdWrite 0x09000000, .busWrite 32 0x3C 0xFFFFFFFF])] (turns 162) := by
  refine ⟨⟨rfl, ?_⟩, ?_⟩ <;> refine ⟨by decide, by decide, by decide +kernel, ?_, by decide +kernel⟩
  · intro i p h
    simp at h
  · intro i p h hi
    match i with
    | 0 => exact absurd hi (by decide)
    | i + 1 => simp at h

/-- A message of exactly one block, whose gap holds the engine turns of the block. -/
theorem meets_DigestScript_block :
    gapsOk silent .md5 [] (List.replicate 63 (0x61, []) ++ [(0x61, turns 65)]) (turns 130) ∧
      (List.replicate 63 ((0x61 : Byte), ([] : List Input)) ++ [(0x61, turns 65)]).length < 2 ^ 64 := by
  refine ⟨⟨by decide, by decide +kernel, by decide +kernel, ?_, by decide +kernel⟩, by decide⟩
  intro i p h hi
  have hlt : i < 64 := by
    by_contra hge
    rw [List.getElem?_eq_none (by simpa using Nat.le_of_not_lt hge)] at h
    cases h
  have h63 : i = 63 := by
    simp only [blockSize] at hi
    omega
  subst h63
  cases h
  decide +kernel

theorem meets_SilentScriptRecordsNoError :
    State.reset.busy = false ∧ gapsOk silent .sha512 [.busRead 32 0x08, cmdWrite 0x00000000] [] (turns 162) := by
  refine ⟨rfl, by decide, by decide, by decide +kernel, ?_, by decide +kernel⟩
  intro i p h
  simp at h

/-- NoFaultFromReachableStates: the one way to be refused. -/
theorem meets_NoFaultFromReachableStates :
    ∃ s : State, s.Inv ∧ s.inputs = .busRead 8 0x04 :: [] ∧ admitted 8 0x04 = false := by
  refine ⟨{ State.reset with inputs := [.busRead 8 0x04] }, ?_, rfl, by decide⟩
  apply inv_of_parts <;> decide +kernel

/-- CompressionEnds: a busy state, and a FINAL on either side of the boundary of its two lengths. -/
theorem meets_CompressionEnds :
    (md5BlockFull.Inv ∧ md5BlockFull.busy = true ∧ md5BlockFull.inputs = []) ∧
      ∀ n ∈ [55, 56], ∃ u : State, (absorbing .md5 n).Inv ∧ (absorbing .md5 n).busy = false ∧
        (absorbing .md5 n).phase = .absorb ∧ (absorbing .md5 n).inputs = [] ∧ exec .final (absorbing .md5 n) = .next u := by
  refine ⟨⟨meets_Inv_block, rfl, rfl⟩, ?_⟩
  intro n h
  have hInv : (absorbing .md5 n).Inv := by
    rcases List.mem_cons.mp h with rfl | h
    · apply inv_of_parts <;> decide +kernel
    · obtain rfl := List.mem_singleton.mp h
      apply inv_of_parts <;> decide +kernel
  have hs : (nextOf (exec .final (absorbing .md5 n))).isSome = true := by
    clear hInv
    revert h n
    decide +kernel
  obtain ⟨u, hu⟩ := Option.isSome_iff_exists.mp hs
  exact ⟨u, hInv, rfl, rfl, rfl, next_of_nextOf hu⟩

/-- CompressionEnds, its clauses on `wait`: a run from a busy state whose wait has ended, and a list of moves with the
engine's 2(R + 1) among the host's. -/
theorem meets_CompressionEnds_wait :
    (∃ t, HostRun.run [.host, .engine, .host] { todo := [.wait], machine := compressing .md5 .absorb 64 64 } =
      .next { todo := [], machine := t }) ∧
    (md5BlockFull.Inv ∧ 2 * (rounds md5BlockFull.alg + 1) ≤
      (.host :: List.replicate 130 .engine : List Move).count .engine) := by
  refine ⟨?_, meets_Inv_block, by decide +kernel⟩
  have h : afterMoves [.host, .engine, .host] { todo := [.wait], machine := compressing .md5 .absorb 64 64 } =
      some ([], [0x00400011, 0x00000010]) := by decide +kernel
  simp only [afterMoves] at h
  split at h
  · rename_i q hq
    have hdone : q.todo = [] := (Prod.mk.inj (Option.some.inj h)).1
    exact ⟨q.machine, hdone ▸ hq⟩
  · cases h

/-- PlatformInstancesIndependent: a platform of two instances, a step of the second, and an access that reaches the
first. -/
theorem meets_PlatformInstancesIndependent :
    (∃ q, Platform.stepAt 1 [State.reset, md5BlockFull] = .next q) ∧
      ∃ q, Platform.access (Config.hcBase 0 + 60) (.read 32) [State.reset] = some q := by
  refine ⟨⟨_, rfl⟩, ?_⟩
  simp [Platform.access, routeAddress, windowOffset]

end Sys2Proof.Tests
end

section
/-! The state family (10_state.md): the reset values, the fields of STATUS, and what a step can do to the error
record. -/

namespace Sys2Proof.Machine

/-! ### STATUS and the reset state (R35, R44) -/

/-- Each field of STATUS at its place (R35), in the codes the model gives PHASE, ALG and ERRCODE. -/
theorem statusWord_fields (s : State) :
    (statusWord s).extractLsb' 0 1 = BitVec.ofBool s.busy ∧
    (statusWord s).extractLsb' 1 1 = BitVec.ofBool s.err ∧
    (statusWord s).extractLsb' 2 1 = s.alg.bit ∧
    (statusWord s).extractLsb' 3 1 = 0 ∧
    (statusWord s).extractLsb' 4 2 = s.phase.code ∧
    (statusWord s).extractLsb' 6 2 = 0 ∧
    (statusWord s).extractLsb' 8 4 = s.errcode.code ∧
    (statusWord s).extractLsb' 12 4 = 0 ∧
    (statusWord s).extractLsb' 16 8 = s.bufcnt ∧
    (statusWord s).extractLsb' 24 8 = 0 := by
  unfold statusWord
  -- Every field below the wanted one is skipped; what is left is the lowest field of the rest.
  refine ⟨?_, ?_, ?_, ?_, ?_, ?_, ?_, ?_, ?_, ?_⟩ <;>
    repeat rw [BitVec.extractLsb'_append_eq_of_le (by decide)]
  case refine_10 => exact BitVec.extractLsb'_eq_self
  all_goals exact BitVec.extractLsb'_append_eq_right

/-- A write to STATUS is taken off the schedule and changes nothing (R53). -/
theorem step_write_status {s : State} {rest : List Input} {v : Word} (h : s.inputs = .busWrite 32 0x04 v :: rest) :
    step s = .next { s with inputs := rest } := by
  rw [step_cons _ _ _ h]
  rfl

/-- Settles O15: the reset state is written with the values of R44. -/
theorem resetStateValues : Obligations.ResetStateValues :=
  ⟨rfl, rfl, rfl, rfl, rfl, rfl, rfl, rfl, rfl, rfl⟩

/-- Settles O11, from the fields of STATUS and a case split on each name whose code the statement lists. -/
theorem statusFields : Obligations.StatusFields := by
  refine ⟨fun s => ?_, fun _ _ _ h => step_write_status h, by decide⟩
  obtain ⟨hbusy, herr, halg, h3, hphase, h6, hcode, h12, hcnt, h24⟩ := statusWord_fields s
  rw [hbusy, herr, halg, hphase, hcode]
  refine ⟨?_, ?_, ?_, h3, ?_, h6, ?_, h12, hcnt, h24⟩
  · cases s.busy <;> rfl
  · cases s.err <;> rfl
  · cases s.alg <;> rfl
  · cases s.phase <;> rfl
  · cases s.errcode <;> rfl

/-! ### Who writes the error record (R32, R222) -/

/-- The next step is an accepted CLRERR or RESET. -/
def ClearsRecord (s : State) : Prop :=
  (nextCommand s = some .clrerr ∧ s.busy = false) ∨ s.inputs.head? = some .reset

/-- The error the next step's write to CMD raises, if it is one: E_ILLEGAL, or the code of the first failed check. -/
def raisedCode (s : State) : Option ErrCode :=
  match s.inputs with
  | .busWrite 32 0x00 w :: _ =>
    match decode w with
    | .illegal _ => some .eIllegal
    | .command i => rejection i s
  | _ => none

theorem raisedCode_of_illegal {s : State} {w : Word} {why : Illegal} {rest : List Input}
    (h : s.inputs = .busWrite 32 0x00 w :: rest) (hd : decode w = .illegal why) : raisedCode s = some .eIllegal := by
  simp [raisedCode, h, hd]

theorem raisedCode_of_command {s : State} {w : Word} {i : Instr} {rest : List Input}
    (h : s.inputs = .busWrite 32 0x00 w :: rest) (hd : decode w = .command i) : raisedCode s = rejection i s := by
  simp [raisedCode, h, hd]

/-- Only a write to CMD raises an error. -/
theorem raisedCode_eq_none {s : State} (h : ∀ w rest, s.inputs ≠ .busWrite 32 0x00 w :: rest) :
    raisedCode s = none := by
  unfold raisedCode
  split
  · rename_i w rest hi
    exact absurd hi (h w rest)
  · rfl

theorem isSome_raisedCode_iff (s : State) :
    (raisedCode s).isSome = true ↔ ∃ w rest, s.inputs = .busWrite 32 0x00 w :: rest ∧
      ((∃ why, decode w = .illegal why) ∨ ∃ i code, decode w = .command i ∧ rejection i s = some code) := by
  constructor
  · intro h
    by_cases hw : ∃ w rest, s.inputs = .busWrite 32 0x00 w :: rest
    · obtain ⟨w, rest, hi⟩ := hw
      refine ⟨w, rest, hi, ?_⟩
      cases hd : decode w with
      | illegal why => exact .inl ⟨why, rfl⟩
      | command i =>
        rw [raisedCode_of_command hi hd] at h
        obtain ⟨code, hr⟩ := Option.isSome_iff_exists.mp h
        exact .inr ⟨i, code, rfl, hr⟩
    · simp [raisedCode_eq_none fun w rest hi => hw ⟨w, rest, hi⟩] at h
  · rintro ⟨w, rest, hi, ⟨why, hd⟩ | ⟨i, code, hd, hr⟩⟩
    · simp [raisedCode_of_illegal hi hd]
    · simp [raisedCode_of_command hi hd, hr]

/-- The checks do not look at the schedule. -/
@[simp] theorem rejection_inputs (i : Instr) (s : State) (rest : List Input) :
    rejection i { s with inputs := rest } = rejection i s := rfl

/-- A write to CMD of a command clears the record exactly when it is an accepted CLRERR. -/
theorem clearsRecord_of_command {s : State} {w : Word} {i : Instr} {rest : List Input}
    (h : s.inputs = .busWrite 32 0x00 w :: rest) (hd : decode w = .command i) :
    ClearsRecord s ↔ i = .clrerr ∧ s.busy = false := by
  simp [ClearsRecord, nextCommand_of_write h hd, h]

/-- CLRERR is rejected only while BUSY = 1. -/
theorem rejection_clrerr_eq_none_iff (s : State) : rejection .clrerr s = none ↔ s.busy = false := by
  simp [rejection_none_iff, legalPhase, inRange]

/-- An engine's turn leaves the error record alone. -/
theorem engineTurn_record (s : State) : (engineTurn s).err = s.err ∧ (engineTurn s).errcode = s.errcode := by
  cases hb : s.busy with
  | false => rw [engineTurn_idle s hb]; exact ⟨rfl, rfl⟩
  | true =>
    obtain ⟨-, -, herr, hcode, -⟩ := engineStep_frame s
    rw [engineTurn_busy s hb]
    exact ⟨herr, hcode⟩

/-- Taking a byte leaves the error record alone, whether or not it starts the block. -/
theorem absorbByte_record (b : Byte) (s : State) :
    (absorbByte b s).err = s.err ∧ (absorbByte b s).errcode = s.errcode := by
  rcases absorbByte_cases b s with ⟨-, h⟩ | ⟨-, h⟩ <;> simp [h]

/-- All a command that goes on can do to the error record: a rejection raises its code, CLRERR clears the record, and
every other accepted command leaves it alone. -/
theorem exec_record_cases {i : Instr} {s t : State} (h : exec i s = .next t) :
    (∃ code, rejection i s = some code ∧ t = raiseError code s) ∨
    (rejection i s = none ∧ i = .clrerr ∧ t = clearError s) ∨
    (rejection i s = none ∧ i ≠ .clrerr ∧ t.err = s.err ∧ t.errcode = s.errcode) := by
  rcases exec_next_cases h with hrej | ⟨hr, heff⟩
  · exact .inl hrej
  rcases heff with ⟨rfl, rfl⟩ | ⟨alg, rfl, rfl⟩ | ⟨b, rfl, -, rfl⟩ | ⟨rfl, -, rfl⟩ | ⟨value, hread, rfl⟩ | ⟨rfl, rfl⟩
  · exact .inr (.inr ⟨hr, nofun, rfl, rfl⟩)
  · exact .inr (.inr ⟨hr, nofun, rfl, rfl⟩)
  · exact .inr (.inr ⟨hr, nofun, absorbByte_record b s⟩)
  · exact .inr (.inr ⟨hr, nofun, rfl, rfl⟩)
  · have hi : i ≠ .clrerr := by
      rcases hread with ⟨idx, rfl | rfl | rfl⟩ | ⟨j, half, rfl⟩ <;> nofun
    exact .inr (.inr ⟨hr, hi, rfl, rfl⟩)
  · exact .inr (.inl ⟨hr, rfl, rfl⟩)

/-- All a step that goes on can do to the error record: clear it, raise a code (recorded when no error is yet), or
leave it alone. -/
theorem step_record_cases {s t : State} (h : step s = .next t) :
    (ClearsRecord s ∧ raisedCode s = none ∧ t.err = false ∧ t.errcode = .eNone) ∨
    (¬ ClearsRecord s ∧ ∃ code, raisedCode s = some code ∧ t.err = true ∧
      t.errcode = if s.err then s.errcode else code) ∨
    (¬ ClearsRecord s ∧ raisedCode s = none ∧ t.err = s.err ∧ t.errcode = s.errcode) := by
  rcases step_cases h with ⟨s0, hm, rfl⟩ | ⟨off, rest, hi, -, rfl⟩ | ⟨rest, hi, rfl⟩ | ⟨off, v, rest, hi, h0, -, rfl⟩ |
    ⟨w, why, rest, hi, hd, rfl⟩ | ⟨w, i, rest, hi, hd, -, he⟩
  · obtain ⟨-, -, -, -, -, -, -, -, -, -, herr, hcode, -⟩ := hm.fields
    obtain ⟨herr', hcode'⟩ := engineTurn_record s0
    refine .inr (.inr ⟨?_, ?_, herr'.trans herr, hcode'.trans hcode⟩) <;>
      rcases hm with ⟨hi, -⟩ | ⟨rest, hi, -⟩ <;> simp [ClearsRecord, nextCommand, raisedCode, hi]
  · exact .inr (.inr ⟨by simp [ClearsRecord, nextCommand, hi], raisedCode_eq_none (by simp [hi]), rfl, rfl⟩)
  · exact .inl ⟨.inr (by simp [hi]), raisedCode_eq_none (by simp [hi]), rfl, rfl⟩
  · exact .inr (.inr ⟨by simp [ClearsRecord, nextCommand, hi, h0], raisedCode_eq_none (by simp [hi, h0]), rfl, rfl⟩)
  · exact .inr (.inl ⟨by simp [ClearsRecord, nextCommand, hi, hd, Decoded.command?], .eIllegal,
      raisedCode_of_illegal hi hd, by simp, by simp⟩)
  · rw [clearsRecord_of_command hi hd, raisedCode_of_command hi hd]
    rcases exec_record_cases he with ⟨code, hr, rfl⟩ | ⟨hr, rfl, rfl⟩ | ⟨hr, hne, herr, hcode⟩
    · refine .inr (.inl ⟨?_, code, hr, by simp, by simp⟩)
      rintro ⟨rfl, hb⟩
      rw [rejection_inputs, (rejection_clrerr_eq_none_iff s).mpr hb] at hr
      cases hr
    · exact .inl ⟨⟨rfl, (rejection_clrerr_eq_none_iff s).mp hr⟩, hr, rfl, rfl⟩
    · exact .inr (.inr ⟨fun hc => hne hc.1, hr, herr, hcode⟩)

/-- From ERR = 0 a step sets ERR exactly when it raises a code. -/
theorem step_err_iff {s t : State} (h : step s = .next t) (hs : s.err = false) :
    t.err = true ↔ (raisedCode s).isSome = true := by
  rcases step_record_cases h with ⟨-, hr, herr, -⟩ | ⟨-, code, hr, herr, -⟩ | ⟨-, hr, herr, -⟩ <;> simp [hr, herr, hs]

/-- From ERR = 0 the code a step raises is the code it records. -/
theorem step_errcode_of_raised {s t : State} {code : ErrCode} (h : step s = .next t) (hs : s.err = false)
    (hr : raisedCode s = some code) : t.errcode = code := by
  rcases step_record_cases h with ⟨-, hn, -⟩ | ⟨-, c, hc, -, hcode⟩ | ⟨-, hn, -⟩
  · simp [hn] at hr
  · simpa [hs, Option.some.inj (hc.symm.trans hr)] using hcode
  · simp [hn] at hr

/-- Settles O50, from the three things a step can do to the error record. -/
theorem errorRecordWriters : Obligations.ErrorRecordWriters := by
  intro s t h
  refine ⟨fun hs => ?_, fun hs => ⟨?_, fun w rest hi => ⟨?_, ?_⟩⟩⟩
  · rcases step_record_cases h with ⟨hc, -, hrec⟩ | ⟨hc, code, -, herr, hcode⟩ | ⟨hc, -, herr, hcode⟩
    · exact (if_pos hc).mpr hrec
    · exact (if_neg hc).mpr ⟨herr, by simpa [hs] using hcode⟩
    · exact (if_neg hc).mpr ⟨herr.trans hs, hcode⟩
  · rw [step_err_iff h hs, isSome_raisedCode_iff]
  · exact fun why hd => step_errcode_of_raised h hs (raisedCode_of_illegal hi hd)
  · exact fun i code hd hr => step_errcode_of_raised h hs ((raisedCode_of_command hi hd).trans hr)

end Sys2Proof.Machine
end

section
/-! The memory family (20_memory.md): what an admitted bus access does, in one step. -/

namespace Sys2Proof.Machine

/-- An admitted read is one step, that of BusRead (R52, R55). -/
theorem step_read_admitted {s : State} {off : Nat} {rest : List Input} (h : s.inputs = .busRead 32 off :: rest)
    (ha : admitted 32 off = true) : step s = .next (busRead off { s with inputs := rest }) := by
  rw [step_cons _ _ _ h, serveInput, if_pos ha]

/-- An admitted write is one step, that of BusWrite (R53, R55). -/
theorem step_write_admitted {s : State} {off : Nat} {v : Word} {rest : List Input}
    (h : s.inputs = .busWrite 32 off v :: rest) (ha : admitted 32 off = true) :
    step s = busWrite off v { s with inputs := rest } := by
  rw [step_cons _ _ _ h, serveInput, if_pos ha]

/-- A write at CMD runs its word (R53). -/
@[simp] theorem busWrite_cmd (v : Word) (s : State) : busWrite 0x00 v s = execCmd v s := rfl

/-- A write anywhere else is ignored (R53). -/
theorem busWrite_of_ne {off : Nat} (v : Word) (s : State) (h : off ≠ 0x00) : busWrite off v s = .next s := if_neg h

/-- The table of R52, with the halves of LEN as its bits: CMD reads 0, as the reserved offsets do. -/
theorem busReadValue_eq (off : Nat) (s : State) :
    busReadValue off s =
      if off = 0x04 then statusWord s
      else if off = 0x08 then s.result
      else if off = 0x0C then s.len.extractLsb' 0 32
      else if off = 0x10 then s.len.extractLsb' 32 32
      else 0 := by
  unfold busReadValue
  split
  case h_6 _ hstatus hresult hlo hhi => rw [if_neg hstatus, if_neg hresult, if_neg hlo, if_neg hhi]
  all_goals rfl

/-- Settles O10: the step is that of BusRead, whose value is the table's. -/
theorem busReadReturnsRegister : Obligations.BusReadReturnsRegister := by
  intro s rest off h halign hlt
  rw [step_read_admitted h ((admitted_iff _ _).mpr ⟨rfl, halign, hlt⟩), busRead, busReadValue_eq]
  rfl

/-- Settles O12: the step is that of BusWrite, which looks only at whether the offset is CMD's. -/
theorem writeReachesOnlyCmd : Obligations.WriteReachesOnlyCmd := by
  intro s rest off v h halign hlt
  rw [step_write_admitted h ((admitted_iff _ _).mpr ⟨rfl, halign, hlt⟩)]
  refine ⟨?_, busWrite_of_ne v _⟩
  rintro rfl
  exact busWrite_cmd v _

end Sys2Proof.Machine
end

section
/-! The encoding family (30_encoding.md): the opcode map read field by field, what the decoder answers on a row and
off every row, and what a write of an illegal word to CMD does. -/

namespace Sys2Proof

/-! ### Fields of a word (R71, R72) -/

theorem extractLsb'_eq_zero_iff {n : Nat} (x : BitVec n) (lo len : Nat) :
    x.extractLsb' lo len = 0 ↔ ∀ k, lo ≤ k → k < lo + len → x.getLsbD k = false := by
  rw [BitVec.eq_of_getLsbD_eq_iff]
  constructor
  · intro h k hlo hlen
    simpa [show k - lo < len by omega, Nat.add_sub_cancel' hlo] using h (k - lo) (by omega)
  · intro h k hk
    simp [h (lo + k) (by omega) (by omega)]

theorem getLsbD_shiftLeft_of_lt {n k : Nat} (x : BitVec n) (s : Nat) (hk : k < n) :
    (x <<< s).getLsbD k = (decide (s ≤ k) && x.getLsbD (k - s)) := by
  rw [BitVec.getLsbD_shiftLeft, decide_eq_true hk, Bool.true_and, ← decide_not]
  simp only [Nat.not_lt]

theorem operandField_extractLsb' (w : Word) (lo len : Nat) (h : lo + len ≤ 16) :
    (operandField w).extractLsb' lo len = w.extractLsb' lo len :=
  BitVec.extractLsb'_extractLsb'_of_le h

/-- The bits `[23:lo]` of a word are RSV and the bits of OPERAND from `lo` up. -/
theorem extractLsb'_rsv_operand_eq_zero_iff (w : Word) (lo : Nat) (hlo : lo ≤ 16) :
    w.extractLsb' lo (24 - lo) = 0 ↔ rsvField w = 0 ∧ (operandField w).extractLsb' lo (16 - lo) = 0 := by
  rw [operandField_extractLsb' w _ _ (by omega), rsvField]
  simp only [extractLsb'_eq_zero_iff]
  constructor
  · exact fun h => ⟨fun k _ _ => h k (by omega) (by omega), fun k _ _ => h k (by omega) (by omega)⟩
  · rintro ⟨hrsv, hoperand⟩ k hk _
    by_cases hlow : k < 16
    · exact hoperand k hk (by omega)
    · exact hrsv k (by omega) (by omega)

/-- A comparison of all bits from `lo` up with an opcode above zeros is one of OPC and one of the bits `[23:lo]`. -/
theorem and_mask_eq_iff (w : Word) (opc : BitVec 8) (lo : Nat) (hlo : lo ≤ 24) :
    w &&& BitVec.allOnes 32 <<< lo = opc.setWidth 32 <<< 24 ↔
      opcField w = opc ∧ w.extractLsb' lo (24 - lo) = 0 := by
  have hmask (k : Nat) (hk : k < 32) :
      (w &&& BitVec.allOnes 32 <<< lo).getLsbD k = (decide (lo ≤ k) && w.getLsbD k) := by
    rw [BitVec.getLsbD_and, getLsbD_shiftLeft_of_lt _ _ hk, BitVec.getLsbD_allOnes,
      decide_eq_true (by omega : k - lo < 32), Bool.and_true, Bool.and_comm]
  have hopc (k : Nat) (hk : k < 32) :
      (opc.setWidth 32 <<< 24).getLsbD k = (decide (24 ≤ k) && opc.getLsbD (k - 24)) := by
    rw [getLsbD_shiftLeft_of_lt _ _ hk]
    simp [show k - 24 < 32 by omega]
  rw [extractLsb'_eq_zero_iff]
  constructor
  · intro h
    have hbit (k : Nat) (hk : k < 32) := (hmask k hk).symm.trans ((congrArg (·.getLsbD k) h).trans (hopc k hk))
    constructor
    · refine BitVec.eq_of_getLsbD_eq fun k hk => ?_
      simpa [opcField, hk, show lo ≤ 24 + k by omega] using hbit (24 + k) (by omega)
    · intro k hk hlt
      simpa [hk, show ¬ 24 ≤ k by omega] using hbit k (by omega)
  · rintro ⟨rfl, hzero⟩
    refine BitVec.eq_of_getLsbD_eq fun k hk => ?_
    rw [hmask k hk, hopc k hk]
    by_cases hhigh : 24 ≤ k
    · simp [opcField, hhigh, show lo ≤ k by omega, show k - 24 < 8 by omega]
    · by_cases hk' : lo ≤ k
      · simp [hhigh, hzero k hk' (by omega)]
      · simp [hhigh, hk']

/-! ### The rows of the opcode map, by fields (R74) -/

/-- How many low bits of the word the operand form of an opcode uses (R72). -/
def operandWidth : Nat → Nat
  | 0x01 => 1
  | 0x02 | 0x04 | 0x05 | 0x06 => 8
  | 0x07 => 5
  | _ => 0

theorem operandWidth_le (opc : Nat) : operandWidth opc ≤ 8 := by
  unfold operandWidth
  split <;> decide

/-- The bits between OPC and the operand of the word's opcode are zero: RSV and the form's must-be-zero bits. -/
def RespectsForm (w : Word) : Prop :=
  w.extractLsb' (operandWidth (opcField w).toNat) (24 - operandWidth (opcField w).toNat) = 0

theorem respectsForm_iff (w : Word) :
    RespectsForm w ↔ rsvField w = 0 ∧
      (operandField w).extractLsb' (operandWidth (opcField w).toNat) (16 - operandWidth (opcField w).toNat) = 0 :=
  extractLsb'_rsv_operand_eq_zero_iff w _ ((operandWidth_le _).trans (by decide))

/-- Every row is its opcode above zeros, and compares every bit but the operand's. -/
theorem row_pattern_mask {r : OpcodeRow} (hr : r ∈ opcodeMap) :
    r.pattern = (opcField r.pattern).setWidth 32 <<< 24 ∧
      r.mask = BitVec.allOnes 32 <<< operandWidth (opcField r.pattern).toNat := by
  revert r
  decide

/-- A row selects the words of its opcode that respect the opcode's form. -/
theorem row_selects_iff {r : OpcodeRow} (hr : r ∈ opcodeMap) (w : Word) :
    w &&& r.mask = r.pattern ↔ opcField w = opcField r.pattern ∧ RespectsForm w := by
  obtain ⟨hpattern, hmask⟩ := row_pattern_mask hr
  have hlo : operandWidth (opcField r.pattern).toNat ≤ 24 := (operandWidth_le _).trans (by decide)
  calc w &&& r.mask = r.pattern
    _ ↔ w &&& BitVec.allOnes 32 <<< operandWidth (opcField r.pattern).toNat =
          (opcField r.pattern).setWidth 32 <<< 24 := by rw [← hmask, ← hpattern]
    _ ↔ _ := and_mask_eq_iff w _ _ hlo
    _ ↔ opcField w = opcField r.pattern ∧ RespectsForm w :=
          and_congr_right fun h => by rw [RespectsForm, h]

/-! ### The row and the operands of a command (R74, R75) -/

/-- OPC of a command (R74). -/
def Instr.opcode : Instr → Nat
  | .nop => 0x00
  | .init _ => 0x01
  | .absorb _ => 0x02
  | .final => 0x03
  | .rdbyte _ => 0x04
  | .rdhex _ => 0x05
  | .rdb64 _ => 0x06
  | .rdchain _ _ => 0x07
  | .clrerr => 0x08

/-- The row of a command (R74). -/
def Instr.row : Instr → OpcodeRow
  | .nop => ⟨"NOP", 0x00000000, 0xFFFFFFFF⟩
  | .init _ => ⟨"INIT", 0x01000000, 0xFFFFFFFE⟩
  | .absorb _ => ⟨"ABSORB", 0x02000000, 0xFFFFFF00⟩
  | .final => ⟨"FINAL", 0x03000000, 0xFFFFFFFF⟩
  | .rdbyte _ => ⟨"RDBYTE", 0x04000000, 0xFFFFFF00⟩
  | .rdhex _ => ⟨"RDHEX", 0x05000000, 0xFFFFFF00⟩
  | .rdb64 _ => ⟨"RDB64", 0x06000000, 0xFFFFFF00⟩
  | .rdchain _ _ => ⟨"RDCHAIN", 0x07000000, 0xFFFFFFE0⟩
  | .clrerr => ⟨"CLRERR", 0x08000000, 0xFFFFFFFF⟩

theorem Instr.row_mem (i : Instr) : i.row ∈ opcodeMap := by
  cases i <;> simp [Instr.row, opcodeMap]

theorem Instr.opcField_row (i : Instr) : (opcField i.row.pattern).toNat = i.opcode := by
  cases i <;> simp only [Instr.row, Instr.opcode] <;> decide

/-- The command's operands are the bits of the word that R75 names. -/
def Instr.ReadFrom (w : Word) : Instr → Prop
  | .init alg => alg = algOfBit (w.extractLsb' 0 1)
  | .absorb byte => byte = w.extractLsb' 0 8
  | .rdbyte idx | .rdhex idx | .rdb64 idx => idx = (w.extractLsb' 0 8).toNat
  | .rdchain j half => j = (w.extractLsb' 0 4).toNat ∧ half = halfOfBit (w.extractLsb' 4 1)
  | .nop | .final | .clrerr => True

/-- Every row is the row of a command whose operands can be read from any word. -/
theorem exists_readFrom_of_mem {r : OpcodeRow} (hr : r ∈ opcodeMap) (w : Word) :
    ∃ i : Instr, i.row = r ∧ i.ReadFrom w := by
  simp only [opcodeMap, List.mem_cons, List.not_mem_nil, or_false] at hr
  rcases hr with rfl | rfl | rfl | rfl | rfl | rfl | rfl | rfl | rfl
  · exact ⟨.nop, rfl, trivial⟩
  · exact ⟨.init _, rfl, rfl⟩
  · exact ⟨.absorb _, rfl, rfl⟩
  · exact ⟨.final, rfl, trivial⟩
  · exact ⟨.rdbyte _, rfl, rfl⟩
  · exact ⟨.rdhex _, rfl, rfl⟩
  · exact ⟨.rdb64 _, rfl, rfl⟩
  · exact ⟨.rdchain _ _, rfl, rfl, rfl⟩
  · exact ⟨.clrerr, rfl, trivial⟩

/-- A command's row selects a word by the three tests of the decoder: OPC, RSV and the form's must-be-zero bits. -/
theorem Instr.row_selects_iff (i : Instr) (w : Word) :
    w &&& i.row.mask = i.row.pattern ↔ (opcField w).toNat = i.opcode ∧ rsvField w = 0 ∧
      (operandField w).extractLsb' (operandWidth i.opcode) (16 - operandWidth i.opcode) = 0 := by
  rw [Sys2Proof.row_selects_iff i.row_mem, BitVec.toNat_eq, i.opcField_row, respectsForm_iff]
  exact and_congr_right fun h => by rw [h]

/-! ### What the decoder answers (R75) -/

theorem decodeNone_eq_command_iff (w : Word) (i j : Instr) :
    decodeNone (operandField w) i = .command j ↔ (operandField w).extractLsb' 0 16 = 0 ∧ j = i := by
  rw [decodeNone, BitVec.extractLsb'_eq_self]
  split <;> simp_all [eq_comm]

theorem decodeAlgSel_eq_command_iff (w : Word) (i : Alg → Instr) (j : Instr) :
    decodeAlgSel (operandField w) i = .command j ↔
      (operandField w).extractLsb' 1 15 = 0 ∧ j = i (algOfBit (w.extractLsb' 0 1)) := by
  rw [decodeAlgSel, operandField_extractLsb' w 0 1 (by decide)]
  split <;> simp_all [eq_comm]

theorem decodeByte_eq_command_iff (w : Word) (i : BitVec 8 → Instr) (j : Instr) :
    decodeByte (operandField w) i = .command j ↔
      (operandField w).extractLsb' 8 8 = 0 ∧ j = i (w.extractLsb' 0 8) := by
  rw [decodeByte, operandField_extractLsb' w 0 8 (by decide)]
  split <;> simp_all [eq_comm]

theorem decodeChain_eq_command_iff (w : Word) (i : BitVec 4 → Half → Instr) (j : Instr) :
    decodeChain (operandField w) i = .command j ↔
      (operandField w).extractLsb' 5 11 = 0 ∧ j = i (w.extractLsb' 0 4) (halfOfBit (w.extractLsb' 4 1)) := by
  rw [decodeChain, operandField_extractLsb' w 0 4 (by decide), operandField_extractLsb' w 4 1 (by decide)]
  split <;> simp_all [eq_comm]

theorem rsvField_of_decode {w : Word} {i : Instr} (h : decode w = .command i) : rsvField w = 0 := by
  by_contra hrsv
  rw [decode, if_pos hrsv] at h
  cases h

/-- A decoded command's row selects the word, and its operands are the word's bits. -/
theorem selects_of_decode {w : Word} {i : Instr} (h : decode w = .command i) :
    w &&& i.row.mask = i.row.pattern ∧ i.ReadFrom w := by
  have hrsv := rsvField_of_decode h
  rw [i.row_selects_iff]
  rw [decode, if_neg (not_not_intro hrsv)] at h
  -- One case per opcode, in the order of the map; the last is the reserved opcodes.
  split at h
  case h_1 hopc | h_4 hopc | h_9 hopc =>
    obtain ⟨hzero, rfl⟩ := (decodeNone_eq_command_iff _ _ _).mp h
    exact ⟨⟨hopc, hrsv, hzero⟩, trivial⟩
  case h_2 hopc =>
    obtain ⟨hzero, rfl⟩ := (decodeAlgSel_eq_command_iff _ _ _).mp h
    exact ⟨⟨hopc, hrsv, hzero⟩, rfl⟩
  case h_3 hopc | h_5 hopc | h_6 hopc | h_7 hopc =>
    obtain ⟨hzero, rfl⟩ := (decodeByte_eq_command_iff _ _ _).mp h
    exact ⟨⟨hopc, hrsv, hzero⟩, rfl⟩
  case h_8 hopc =>
    obtain ⟨hzero, rfl⟩ := (decodeChain_eq_command_iff _ _ _).mp h
    exact ⟨⟨hopc, hrsv, hzero⟩, rfl, rfl⟩
  case h_10 => cases h

/-- A word that a command's row selects decodes to it, with the word's bits as operands. -/
theorem decode_of_selects {w : Word} {i : Instr} (hsel : w &&& i.row.mask = i.row.pattern) (hread : i.ReadFrom w) :
    decode w = .command i := by
  obtain ⟨hopc, hrsv, hzero⟩ := (i.row_selects_iff w).mp hsel
  rw [decode, if_neg (not_not_intro hrsv), hopc]
  cases i with
  | nop | final | clrerr => exact (decodeNone_eq_command_iff _ _ _).mpr ⟨hzero, rfl⟩
  | init _ => exact (decodeAlgSel_eq_command_iff _ _ _).mpr ⟨hzero, congrArg _ hread⟩
  | absorb _ | rdbyte _ | rdhex _ | rdb64 _ =>
    exact (decodeByte_eq_command_iff _ _ _).mpr ⟨hzero, congrArg _ hread⟩
  | rdchain _ _ =>
    obtain ⟨hj, hhalf⟩ := hread
    exact (decodeChain_eq_command_iff _ _ _).mpr ⟨hzero, congrArg₂ _ hj hhalf⟩

theorem decode_eq_command_iff (w : Word) (i : Instr) :
    decode w = .command i ↔ w &&& i.row.mask = i.row.pattern ∧ i.ReadFrom w :=
  ⟨selects_of_decode, fun ⟨hsel, hread⟩ => decode_of_selects hsel hread⟩

theorem decode_illegal_iff (w : Word) :
    (∃ why, decode w = .illegal why) ↔ ∀ r ∈ opcodeMap, ¬ (w &&& r.mask = r.pattern) := by
  constructor
  · rintro ⟨why, hd⟩ r hr hsel
    obtain ⟨i, rfl, hread⟩ := exists_readFrom_of_mem hr w
    cases hd.symm.trans (decode_of_selects hsel hread)
  · intro hnone
    cases hd : decode w with
    | illegal why => exact ⟨why, rfl⟩
    | command i => exact absurd (selects_of_decode hd).1 (hnone _ i.row_mem)

/-- Settles O2: the row and the operands of each command, and no row for an illegal word. -/
theorem decoderReadsOpcodeRows : Obligations.DecoderReadsOpcodeRows := fun w =>
  ⟨(decode_eq_command_iff w .nop).trans (iff_of_eq (and_true _)),
    fun alg => decode_eq_command_iff w (.init alg),
    fun b => decode_eq_command_iff w (.absorb b),
    (decode_eq_command_iff w .final).trans (iff_of_eq (and_true _)),
    fun idx => decode_eq_command_iff w (.rdbyte idx),
    fun idx => decode_eq_command_iff w (.rdhex idx),
    fun idx => decode_eq_command_iff w (.rdb64 idx),
    fun j half => decode_eq_command_iff w (.rdchain j half),
    (decode_eq_command_iff w .clrerr).trans (iff_of_eq (and_true _)),
    decode_illegal_iff w⟩

/-! ### Illegal words (R76) -/

/-- The only word that decodes to NOP is 0. -/
theorem decode_nop_iff (w : Word) : decode w = .command .nop ↔ w = 0 := by
  obtain ⟨hnop, -⟩ := decoderReadsOpcodeRows w
  have hmask : w &&& 0xFFFFFFFF = w := BitVec.and_allOnes
  rw [hnop, hmask]

/-- No row selects a reserved opcode or a word with RSV set. -/
theorem not_selects_of_reserved {w : Word} (h : 0x09 ≤ (opcField w).toNat ∨ rsvField w ≠ 0) :
    ∀ r ∈ opcodeMap, ¬ (w &&& r.mask = r.pattern) := by
  intro r hr hsel
  obtain ⟨hopc, hform⟩ := (row_selects_iff hr w).mp hsel
  rcases h with hreserved | hrsv
  · have hbound : ∀ q ∈ opcodeMap, (opcField q.pattern).toNat < 0x09 := by decide
    rw [hopc] at hreserved
    exact absurd (hbound r hr) (Nat.not_lt.mpr hreserved)
  · exact hrsv ((respectsForm_iff w).mp hform).1

/-- No row selects a word with a must-be-zero bit of its opcode's form set. -/
theorem not_selects_of_not_respectsForm {w : Word} (h : ¬ RespectsForm w) :
    ∀ r ∈ opcodeMap, ¬ (w &&& r.mask = r.pattern) :=
  fun _ hr hsel => h ((row_selects_iff hr w).mp hsel).2

end Sys2Proof

namespace Sys2Proof.Machine

/-- A word no row selects records E_ILLEGAL and does nothing else. -/
theorem execCmd_of_not_selects {w : Word} (h : ∀ r ∈ opcodeMap, ¬ (w &&& r.mask = r.pattern)) (s : State) :
    execCmd w s = .next (raiseError .eIllegal s) := by
  obtain ⟨why, hd⟩ := (decode_illegal_iff w).mpr h
  exact execCmd_illegal w why s hd

/-- For every opcode, a bit set between OPC and the opcode's operand is rejected. -/
theorem rejectsIllegalForms (opc : BitVec 8) : RejectsIllegalForms opc (operandWidth opc.toNat) := by
  rintro w s rfl hset
  exact execCmd_of_not_selects (not_selects_of_not_respectsForm hset) s

/-- Settles O7: an illegal word is one no row selects, and the write of one is raise E_ILLEGAL. -/
theorem illegalWordOnlyRecordsError : Obligations.IllegalWordOnlyRecordsError := by
  refine ⟨?_, fun w => not_selects_of_reserved, rejectsIllegalForms 0x00, rejectsIllegalForms 0x01,
    rejectsIllegalForms 0x02, rejectsIllegalForms 0x03, rejectsIllegalForms 0x04, rejectsIllegalForms 0x05,
    rejectsIllegalForms 0x06, rejectsIllegalForms 0x07, rejectsIllegalForms 0x08, decode_nop_iff⟩
  intro s rest w h hnone
  rw [step_write_admitted h rfl, busWrite_cmd, execCmd_of_not_selects hnone]
  rfl

end Sys2Proof.Machine
end

section
/-! The primitives family (40_primitives.md): each bit of a rotation, a shift, a mixing function and a sigma, as a
function of the operands' bits. -/

namespace Sys2Proof.Machine

/-! ### Rotation and shift to the right (R93, R94) -/

theorem rotr64_eq_rotateRight (x : DWord) {n : Nat} (hn : n < 64) : rotr64 x n = x.rotateRight n := by
  rw [rotr64, BitVec.rotateRight_def, Nat.mod_eq_of_lt hn]

theorem getLsbD_rotr64 (x : DWord) {n i : Nat} (hn : n < 64) (hi : i < 64) :
    (rotr64 x n).getLsbD i = x.getLsbD ((i + n) % 64) := by
  rw [rotr64_eq_rotateRight x hn, BitVec.getLsbD_rotateRight, Nat.mod_eq_of_lt hn, Bool.cond_decide]
  split
  · rw [Nat.mod_eq_of_lt (by omega), Nat.add_comm]
  · rw [decide_eq_true hi, Bool.true_and]
    congr 1
    omega

theorem getLsbD_shr64 (x : DWord) (n i : Nat) :
    (shr64 x n).getLsbD i = if i + n < 64 then x.getLsbD (i + n) else false := by
  rw [shr64, BitVec.getLsbD_ushiftRight, Nat.add_comm n i]
  split
  · rfl
  · next h => exact BitVec.getLsbD_of_ge x _ (Nat.le_of_not_lt h)

/-! ### The MD5 mixing functions (R96 to R99) -/

theorem getLsbD_md5F (x y z : Word) {i : Nat} (hi : i < 32) :
    (md5F x y z).getLsbD i = if x.getLsbD i then y.getLsbD i else z.getLsbD i := by
  rw [md5F, BitVec.getLsbD_or, BitVec.getLsbD_and, BitVec.getLsbD_and, BitVec.getLsbD_not, decide_eq_true hi,
    Bool.true_and]
  cases x.getLsbD i <;> simp

theorem getLsbD_md5G (x y z : Word) {i : Nat} (hi : i < 32) :
    (md5G x y z).getLsbD i = if z.getLsbD i then x.getLsbD i else y.getLsbD i := by
  rw [md5G, BitVec.getLsbD_or, BitVec.getLsbD_and, BitVec.getLsbD_and, BitVec.getLsbD_not, decide_eq_true hi,
    Bool.true_and]
  cases z.getLsbD i <;> simp

theorem getLsbD_md5H (x y z : Word) (i : Nat) :
    (md5H x y z).getLsbD i = ((x.getLsbD i != y.getLsbD i) != z.getLsbD i) := by
  rw [md5H, BitVec.getLsbD_xor, BitVec.getLsbD_xor]

theorem getLsbD_md5I (x y z : Word) {i : Nat} (hi : i < 32) :
    (md5I x y z).getLsbD i = (y.getLsbD i != (x.getLsbD i || !z.getLsbD i)) := by
  rw [md5I, BitVec.getLsbD_xor, BitVec.getLsbD_or, BitVec.getLsbD_not, decide_eq_true hi, Bool.true_and]

/-! ### CH and MAJ (R100, R101) -/

theorem getLsbD_ch (x y z : DWord) {i : Nat} (hi : i < 64) :
    (ch x y z).getLsbD i = if x.getLsbD i then y.getLsbD i else z.getLsbD i := by
  rw [ch, BitVec.getLsbD_xor, BitVec.getLsbD_and, BitVec.getLsbD_and, BitVec.getLsbD_not, decide_eq_true hi,
    Bool.true_and]
  cases x.getLsbD i <;> simp

/-- The parity of the three pairwise products of bits is their majority. -/
theorem xor_and_pairs_eq_majority (a b c : Bool) :
    (((a && b) ^^ (a && c)) ^^ (b && c)) = decide (2 ≤ a.toNat + b.toNat + c.toNat) := by
  revert a b c
  decide

theorem getLsbD_maj (x y z : DWord) (i : Nat) :
    (maj x y z).getLsbD i =
      decide (2 ≤ (x.getLsbD i).toNat + (y.getLsbD i).toNat + (z.getLsbD i).toNat) := by
  rw [maj, BitVec.getLsbD_xor, BitVec.getLsbD_xor, BitVec.getLsbD_and, BitVec.getLsbD_and, BitVec.getLsbD_and,
    xor_and_pairs_eq_majority]

/-! ### The four sigmas (R102 to R105) -/

/-- Bit i of a big sigma with distances p, q and r. -/
theorem getLsbD_xor_rotr64_rotr64_rotr64 (x : DWord) {p q r i : Nat} (hp : p < 64) (hq : q < 64) (hr : r < 64)
    (hi : i < 64) :
    (rotr64 x p ^^^ rotr64 x q ^^^ rotr64 x r).getLsbD i =
      ((x.getLsbD ((i + p) % 64) != x.getLsbD ((i + q) % 64)) != x.getLsbD ((i + r) % 64)) := by
  rw [BitVec.getLsbD_xor, BitVec.getLsbD_xor, getLsbD_rotr64 x hp hi, getLsbD_rotr64 x hq hi, getLsbD_rotr64 x hr hi]

/-- Bit i of a small sigma with rotation distances p and q and shift distance r. -/
theorem getLsbD_xor_rotr64_rotr64_shr64 (x : DWord) {p q i : Nat} (r : Nat) (hp : p < 64) (hq : q < 64) (hi : i < 64) :
    (rotr64 x p ^^^ rotr64 x q ^^^ shr64 x r).getLsbD i =
      ((x.getLsbD ((i + p) % 64) != x.getLsbD ((i + q) % 64)) !=
        (if i + r < 64 then x.getLsbD (i + r) else false)) := by
  rw [BitVec.getLsbD_xor, BitVec.getLsbD_xor, getLsbD_rotr64 x hp hi, getLsbD_rotr64 x hq hi, getLsbD_shr64]

/-- Settles O19, from the bits of each function; a sigma's distances are those of its definition. -/
theorem mixingFunctionsBitByBit : Obligations.MixingFunctionsBitByBit := by
  refine ⟨fun x y z i hi => ?_, fun x y z i hi => ?_, fun x n i _ _ _ => getLsbD_shr64 x n i, fun x i hi => ?_⟩
  · exact ⟨getLsbD_md5F x y z hi, getLsbD_md5G x y z hi, getLsbD_md5H x y z i, getLsbD_md5I x y z hi⟩
  · exact ⟨getLsbD_ch x y z hi, getLsbD_maj x y z i⟩
  · exact ⟨getLsbD_xor_rotr64_rotr64_rotr64 x (by decide) (by decide) (by decide) hi,
      getLsbD_xor_rotr64_rotr64_rotr64 x (by decide) (by decide) (by decide) hi,
      getLsbD_xor_rotr64_rotr64_shr64 x 7 (by decide) (by decide) hi,
      getLsbD_xor_rotr64_rotr64_shr64 x 6 (by decide) (by decide) hi⟩

end Sys2Proof.Machine
end

section
/-! The constants family (41_constants.md): the SHA-512 tables against the root formulas, the MD5 tables against the
patterns of their groups, and the chaining value INIT loads. -/

namespace Sys2Proof.Machine

/-! ### The SHA-512 tables (R124, R125, R127) -/

/-- The first 80 primes, written out: the primes column of K_SHA's table (R125). -/
def first80Primes : List Nat :=
  [2, 3, 5, 7, 11, 13, 17, 19, 23, 29, 31, 37, 41, 43, 47, 53, 59, 61, 67, 71, 73, 79, 83, 89, 97, 101, 103, 107, 109,
   113, 127, 131, 137, 139, 149, 151, 157, 163, 167, 173, 179, 181, 191, 193, 197, 199, 211, 223, 227, 229, 233, 239,
   241, 251, 257, 263, 269, 271, 277, 281, 283, 293, 307, 311, 313, 317, 331, 337, 347, 349, 353, 359, 367, 373, 379,
   383, 389, 397, 401, 409]

/-- Trial division below 410 may stop at 20: with a divisor of 21 or more, the other factor is below 20. -/
theorem trialDivision_below_21 {p : Nat} (hp : p < 410) :
    (∀ q, q < p → 2 ≤ q → p % q ≠ 0) ↔ ∀ q, q < 21 → q < p → 2 ≤ q → p % q ≠ 0 := by
  refine ⟨fun h q _ => h q, fun h q hq h2 hdvd => ?_⟩
  obtain ⟨r, rfl⟩ := Nat.dvd_of_mod_eq_zero hdvd
  by_cases hsmall : q < 21
  · exact h q hsmall hq h2 (Nat.mul_mod_right q r)
  · have hr2 : 1 < r := Nat.lt_of_mul_lt_mul_left (a := q) (by rwa [Nat.mul_one])
    have hr21 : 21 * r ≤ q * r := Nat.mul_le_mul_right r (by omega)
    exact h r (by omega) (by omega) hr2 (Nat.mul_mod_left q r)

/-- The primes below 410, found with the divisors below 21, are these. -/
theorem smallPrimes_eq : smallPrimes = first80Primes := by
  calc smallPrimes
      = (List.range 410).filter fun p => decide (2 ≤ p ∧ ∀ q, q < 21 → q < p → 2 ≤ q → p % q ≠ 0) :=
        List.filter_congr fun p hp => decide_eq_decide.mpr <|
          and_congr_right fun _ => trialDivision_below_21 (List.mem_range.mp hp)
    _ = first80Primes := by decide +kernel

/-- The word is the integer k-th root of p * 2^(64 k) modulo 2^64 (R127), with the root's quotient by 2^64 below 8. -/
abbrev IsRootFraction (k p : Nat) (word : DWord) : Prop :=
  ∃ a, a < 8 ∧ (a * 2 ^ 64 + word.toNat) ^ k ≤ p * 2 ^ (64 * k) ∧ p * 2 ^ (64 * k) < (a * 2 ^ 64 + word.toNat + 1) ^ k

theorem ivSha_isRootFraction : ∀ i, i < 8 → IsRootFraction 2 (first80Primes.getD i 0) (ivSha i) := by
  decide +kernel

theorem kSha_isRootFraction : ∀ t, t < 80 → IsRootFraction 3 (first80Primes.getD t 0) (kSha t) := by
  decide +kernel

/-- Settles O16: over the primes written out, each entry is checked against its two bounds. -/
theorem shaTablesMatchRootFormulas : Obligations.ShaTablesMatchRootFormulas := by
  unfold Obligations.ShaTablesMatchRootFormulas
  rw [smallPrimes_eq]
  exact ⟨rfl, ivSha_isRootFraction, kSha_isRootFraction⟩

/-! ### The MD5 tables (R120 to R123) -/

/-- The message-word index of each round, by the formula of its group (R123). -/
theorem idxMd5_eq : ∀ t, t < 64 → idxMd5 t =
    if t < 16 then t else if t < 32 then (5 * t + 1) % 16 else if t < 48 then (3 * t + 5) % 16 else 7 * t % 16 := by
  decide

/-- The rotation amount of each round: the four of its group, repeating (R122). -/
theorem sMd5_eq : ∀ t, t < 64 → sMd5 t =
    (if t < 16 then [7, 12, 17, 22] else if t < 32 then [5, 9, 14, 20] else if t < 48 then [4, 11, 16, 23]
     else [6, 10, 15, 21]).getD (t % 4) 0 := by
  decide

/-- The 16 indices of a group are a permutation of 0..15 (R123). -/
theorem idxMd5_group_perm :
    ∀ g, g < 4 → ((List.range 16).map fun k => idxMd5 (16 * g + k)).Perm (List.range 16) := by
  decide

/-- A group uses every message word exactly once. -/
theorem idxMd5_group_uses_once {g j : Nat} (hg : g < 4) (hj : j < 16) :
    ((List.range 16).filter fun k => idxMd5 (16 * g + k) == j).length = 1 := by
  calc ((List.range 16).filter fun k => idxMd5 (16 * g + k) == j).length
      = ((List.range 16).map fun k => idxMd5 (16 * g + k)).count j := by
        rw [List.count, List.countP_map, List.countP_eq_length_filter]; rfl
    _ = (List.range 16).count j := (idxMd5_group_perm g hg).count_eq j
    _ = 1 := List.count_eq_one_of_mem List.nodup_range (List.mem_range.mpr hj)

/-- The first four entries INIT of MD5 loads are IV_MD5, zero-extended (R201). -/
theorem regAt_initH_md5 {i : Nat} (hi : i < 4) : regAt (initH .md5) i = zext64 (ivMd5 i) := by
  rw [regAt_of_lt _ _ (by omega), initH, Vector.getElem_ofFn, if_pos hi]

/-- INIT passes its checks in every state that is not busy: every phase is legal and both algorithms are in range. -/
theorem rejection_init_eq_none {s : State} (alg : Alg) (hb : s.busy = false) : rejection (.init alg) s = none :=
  (rejection_none_iff _ s).mpr ⟨.inl hb, rfl, rfl, nofun⟩

/-- INIT, when not busy, begins a digest (R201). -/
theorem exec_init_of_not_busy {s : State} (alg : Alg) (hb : s.busy = false) :
    exec (.init alg) s = .next (beginDigest alg s) := by
  rw [exec_eq_guarded, guarded_of_none _ _ _ (rejection_init_eq_none alg hb)]
  rfl

/-- Settles O17: the listed words are the tables' own, the patterns are those of each group, and INIT's effect is
beginDigest. The statement lists K_MD5 as numbers, so each of its 64 words is compared with the number's word. -/
theorem md5TablesAsListed : Obligations.Md5TablesAsListed := by
  refine ⟨fun _ _ => rfl, by decide, fun s hb => ?_, by decide, idxMd5_eq, ?_, sMd5_eq⟩
  · exact ⟨beginDigest .md5 s, exec_init_of_not_busy .md5 hb, fun _ hi => regAt_initH_md5 hi⟩
  · exact fun _ hg _ hj => idxMd5_group_uses_once hg hj

end Sys2Proof.Machine
end

section
/-! The preprocessor family (42_preprocessor.md): what ABSORB and FINAL do when they pass their checks, and the errors
they are rejected with. -/

namespace Sys2Proof.Machine

/-! ### Rejections the two commands share (R203) -/

/-- A command that fails a check is rejected with that check's error. -/
theorem rejects_of_rejection {i : Instr} {s : State} {code : ErrCode} (h : rejection i s = some code) :
    Rejects i s code :=
  (exec_eq_guarded i s).trans (guarded_of_some i s _ code h)

/-- While BUSY = 1 every command but NOP is rejected with E_BUSY. -/
theorem rejects_busy {i : Instr} {s : State} (hi : i ≠ .nop) (hb : s.busy = true) : Rejects i s .eBusy :=
  rejects_of_rejection (rejection_busy i s hb hi)

/-- While BUSY = 0 a command is rejected with E_SEQUENCE in every phase where it is not legal. -/
theorem rejects_sequence {i : Instr} {s : State} (hb : s.busy = false) (hp : legalPhase i s.phase = false) :
    Rejects i s .eSequence :=
  rejects_of_rejection (rejection_sequence i s hb hp)

/-- ABSORB is legal in the phase ABSORB only (R204). -/
theorem legalPhase_absorb_eq_false (b : Byte) {p : Phase} (hp : p ≠ .absorb) : legalPhase (.absorb b) p = false :=
  beq_eq_false_iff_ne.mpr hp

/-- FINAL is legal in the phase ABSORB only (R204). -/
theorem legalPhase_final_eq_false {p : Phase} (hp : p ≠ .absorb) : legalPhase .final p = false :=
  beq_eq_false_iff_ne.mpr hp

/-! ### ABSORB (R135) -/

/-- ABSORB passes its checks in ABSORB, not busy and with room in LEN. -/
theorem rejection_absorb_eq_none (b : Byte) {s : State} (hb : s.busy = false) (hp : s.phase = .absorb)
    (hl : s.len ≠ maxLen) : rejection (.absorb b) s = none :=
  (rejection_none_iff _ s).mpr ⟨.inl hb, beq_iff_eq.mpr hp, rfl, fun _ _ => hl⟩

/-- ABSORB that passes its checks takes its byte when BUF has the byte at BUFCNT. -/
theorem exec_absorb_of_accepted {b : Byte} {s : State} (hr : rejection (.absorb b) s = none)
    (hn : s.bufcnt.toNat < 128) : exec (.absorb b) s = .next (absorbByte b s) := by
  rw [exec_eq_guarded, guarded_of_none _ _ _ hr]
  exact if_pos hn

/-- The byte goes to BUF[BUFCNT], whether or not it starts the block. -/
@[simp] theorem absorbByte_buf (b : Byte) (s : State) :
    (absorbByte b s).buf = putByte s.bufcnt.toNat b s.buf := by
  rcases absorbByte_cases b s with ⟨-, h⟩ | ⟨-, h⟩ <;> simp [h]

/-- BUFCNT counts the byte, whether or not it starts the block. -/
@[simp] theorem absorbByte_bufcnt (b : Byte) (s : State) : (absorbByte b s).bufcnt = s.bufcnt + 1 := by
  rcases absorbByte_cases b s with ⟨-, h⟩ | ⟨-, h⟩ <;> simp [h]

/-- LEN counts the byte, whether or not it starts the block. -/
@[simp] theorem absorbByte_len (b : Byte) (s : State) : (absorbByte b s).len = s.len + 1 := by
  rcases absorbByte_cases b s with ⟨-, h⟩ | ⟨-, h⟩ <;> simp [h]

/-- Taking a byte writes BUF, BUFCNT, LEN and what starting a block writes, and nothing else. -/
theorem absorbByte_frame (b : Byte) (s : State) :
    absorbByte b s =
      { s with
        buf := (absorbByte b s).buf, bufcnt := (absorbByte b s).bufcnt, len := (absorbByte b s).len,
        busy := (absorbByte b s).busy, v := (absorbByte b s).v, rnd := (absorbByte b s).rnd } := by
  rcases absorbByte_cases b s with ⟨-, h⟩ | ⟨-, h⟩ <;> rw [h] <;> rfl

/-- BUFCNT below 128 does not wrap when it counts a byte. -/
theorem toNat_bufcnt_add_one {n : BitVec 8} (hn : n.toNat < 128) : (n + 1).toNat = n.toNat + 1 := by
  bv_omega

/-- LEN below its largest value does not wrap when it counts a byte (R138). -/
theorem toNat_len_add_one {len : DWord} (hl : len ≠ maxLen) : (len + 1).toNat = len.toNat + 1 := by
  unfold maxLen at hl
  bv_omega

/-- The byte that makes BUFCNT the block size starts the block, any other leaves the engine as it was. -/
theorem absorbByte_engine (b : Byte) {s : State} (hb : s.busy = false) (hn : s.bufcnt.toNat < 128) :
    if s.bufcnt.toNat + 1 = blockSize s.alg then
      (absorbByte b s).busy = true ∧ (absorbByte b s).v = s.h ∧ (absorbByte b s).rnd = 0
    else (absorbByte b s).busy = false ∧ (absorbByte b s).v = s.v ∧ (absorbByte b s).rnd = s.rnd := by
  rw [← toNat_bufcnt_add_one hn]
  rcases absorbByte_cases b s with ⟨hfull, h⟩ | ⟨hfull, h⟩
  · rw [if_pos hfull, h]
    exact ⟨rfl, rfl, rfl⟩
  · rw [if_neg hfull, h]
    exact ⟨hb, rfl, rfl⟩

/-- Settles O38: the state ABSORB leaves is absorbByte's, read field by field. -/
theorem absorbTakesByte : Obligations.AbsorbTakesByte := by
  refine ⟨fun b s => rejects_busy nofun, fun b s hb hp => rejects_sequence hb (legalPhase_absorb_eq_false b hp),
    fun b s hb hp hl => rejects_of_rejection (rejection_overflow b s hb hp hl), ?_, rejectsIllegalForms 0x02⟩
  intro b s hb hp hl hn
  refine ⟨absorbByte b s, exec_absorb_of_accepted (rejection_absorb_eq_none b hb hp hl) hn, fun k hk => ?_, ?_, ?_,
    absorbByte_engine b hb hn, absorbByte_frame b s⟩
  · rw [absorbByte_buf, bufByte_putByte _ _ _ _ hk]
  · rw [absorbByte_bufcnt, toNat_bufcnt_add_one hn]
  · rw [absorbByte_len, toNat_len_add_one hl]

/-! ### FINAL (R136) -/

/-- FINAL passes its checks in ABSORB when not busy. -/
theorem rejection_final_eq_none {s : State} (hb : s.busy = false) (hp : s.phase = .absorb) :
    rejection .final s = none :=
  (rejection_none_iff _ s).mpr ⟨.inl hb, beq_iff_eq.mpr hp, rfl, nofun⟩

/-- FINAL that passes its checks pads and starts the block when BUF has the byte at BUFCNT. -/
theorem exec_final_of_accepted {s : State} (hr : rejection .final s = none) (hn : s.bufcnt.toNat < 128) :
    exec .final s = .next (padAndStart s) := by
  rw [exec_eq_guarded, guarded_of_none _ _ _ hr]
  exact if_pos hn

/-- No block is larger than BUF. -/
theorem blockSize_le_128 (alg : Alg) : blockSize alg ≤ 128 := by
  cases alg <;> decide

/-- The model's test for one padding block is R136's bound on BUFCNT. -/
theorem lenFits_iff (alg : Alg) (n : Nat) : lenFits alg n = true ↔ n ≤ blockSize alg - lenFieldSize alg - 1 :=
  decide_eq_true_iff

/-- FINAL's writes in R136's order: 0x80 at `n`, the bytes before it and past the block kept, then the length field
where it fits, and zeros elsewhere. -/
theorem bufByte_padFirst_eq (alg : Alg) (n : Nat) (len : DWord) (buf : Vector Byte 128) {k : Nat} (hk : k < 128) :
    bufByte (padFirst alg n len buf) k =
      if k = n then 0x80
      else if k < n ∨ blockSize alg ≤ k then bufByte buf k
      else if n ≤ blockSize alg - lenFieldSize alg - 1 ∧ blockSize alg - lenFieldSize alg ≤ k then
        byteAt (lenField alg len.toNat) (k - (blockSize alg - lenFieldSize alg))
      else 0x00 := by
  rw [bufByte_padFirst _ _ _ _ _ hk]
  simp only [lenFits_iff, lenFieldByte]
  by_cases hkn : k = n
  · rw [if_pos hkn, if_pos hkn]
  rw [if_neg hkn, if_neg hkn]
  by_cases hkept : k < n ∨ blockSize alg ≤ k
  · rw [if_pos hkept, if_neg (by omega)]
  · rw [if_neg hkept, if_pos (by omega)]

/-- Settles O40: the state FINAL leaves is padAndStart's, read field by field. -/
theorem finalPadsAndStarts : Obligations.FinalPadsAndStarts := by
  refine ⟨fun s => rejects_busy nofun, fun s hb hp => rejects_sequence hb (legalPhase_final_eq_false hp), ?_,
    rejectsIllegalForms 0x03⟩
  intro s hb hp hn
  have hbuf : s.bufcnt.toNat < 128 := hn.trans_le (blockSize_le_128 s.alg)
  refine ⟨padAndStart s, exec_final_of_accepted (rejection_final_eq_none hb hp) hbuf, rfl, ?_, fun k hk => ?_⟩
  · simp only [padAndStart_nblk, lenFits_iff]
  · rw [padAndStart_buf, bufByte_padFirst_eq _ _ _ _ hk]

end Sys2Proof.Machine
end

section
/-! The scheduler family (43_scheduler.md): the byte order of the message words, and the SHA-512 schedule read off the
sliding window (R154) as the recurrence of R153. -/

namespace Sys2Proof.Machine

/-! ### Byte order (R10, R150, R152) -/

/-- Byte `i` of the four at `k` is byte `i` of `from_le`, counted from the low end. -/
theorem extractLsb'_fromLe32 (bytes : List Byte) (k : Nat) {i : Nat} (hi : i < 4) :
    (fromLe32 bytes k).extractLsb' (8 * i) 8 = byteAt bytes (k + i) := by
  unfold fromLe32
  -- The bytes below the wanted one are skipped; then it is the lowest, or the only one left.
  interval_cases i <;> repeat rw [BitVec.extractLsb'_append_eq_of_le (by decide)]
  on_goal 4 => exact BitVec.extractLsb'_eq_self
  all_goals exact BitVec.extractLsb'_append_eq_right

/-- Byte `i` of the eight at `k` is byte `i` of `from_be`, counted from the high end. -/
theorem extractLsb'_fromBe64 (bytes : List Byte) (k : Nat) {i : Nat} (hi : i < 8) :
    (fromBe64 bytes k).extractLsb' (56 - 8 * i) 8 = byteAt bytes (k + i) := by
  unfold fromBe64
  -- As for `from_le`, with the first byte the highest.
  interval_cases i <;> repeat rw [BitVec.extractLsb'_append_eq_of_le (by decide)]
  on_goal 1 => exact BitVec.extractLsb'_eq_self
  all_goals exact BitVec.extractLsb'_append_eq_right

/-- Settles O20: X[j] is `from_le` at 4j and W[t] is `from_be` at 8t. -/
theorem messageWordByteOrder : Obligations.MessageWordByteOrder :=
  ⟨fun block j _ hk => extractLsb'_fromLe32 block (4 * j) hk, fun block t _ hk => extractLsb'_fromBe64 block (8 * t) hk⟩

/-! ### The SHA-512 schedule (R152 to R154) -/

@[simp] theorem shaWindow_length (block : List Byte) (t : Nat) : (shaWindow block t).length = 16 := by
  induction t with
  | zero => simp [shaWindow]
  | succ t ih => simp [shaWindow, ih]

/-- The window slides: what is at place `i` one round later was at place `i + 1`. -/
theorem shaWindow_succ_getD (block : List Byte) (t : Nat) {i : Nat} (hi : i < 15) :
    (shaWindow block (t + 1)).getD i 0 = (shaWindow block t).getD (i + 1) 0 := by
  have hlen : i < (shaWindow block t).tail.length := by simpa using hi
  rw [shaWindow, List.getD_append _ _ _ _ hlen]
  simp only [List.getD_eq_getElem?_getD, List.getElem?_tail]

/-- The window's new last word is the recurrence's value on the window before. -/
theorem shaWindow_succ_getD_last (block : List Byte) (t : Nat) :
    (shaWindow block (t + 1)).getD 15 0 = shaNextWord (shaWindow block t) := by
  simp [shaWindow]

/-- The window of round `t` holds W[t], .., W[t+15]. -/
theorem shaWindow_getD (block : List Byte) (t : Nat) {i : Nat} (hi : i < 16) :
    (shaWindow block t).getD i 0 = shaWord block (t + i) := by
  induction i generalizing t with
  | zero => rfl
  | succ i ih =>
    rw [← shaWindow_succ_getD block t (by omega), ih (t + 1) (by omega), Nat.add_right_comm, Nat.add_assoc]

/-- W[0..15] are the message words (R152). -/
theorem shaWord_of_lt (block : List Byte) {t : Nat} (ht : t < 16) : shaWord block t = shaMessageWord block t := by
  have h := shaWindow_getD block 0 ht
  rw [Nat.zero_add] at h
  simp [← h, shaWindow, ht]

/-- The recurrence of R153, for every round. -/
theorem shaWord_add_sixteen (block : List Byte) (t : Nat) :
    shaWord block (t + 16) =
      shaWord block t + ssig0 (shaWord block (t + 1)) + shaWord block (t + 9) + ssig1 (shaWord block (t + 14)) := by
  calc shaWord block (t + 16)
    _ = (shaWindow block (t + 1)).getD 15 0 := by rw [shaWindow_getD block (t + 1) (by decide), Nat.add_assoc]
    _ = shaNextWord (shaWindow block t) := shaWindow_succ_getD_last block t
    _ = _ := by simp only [shaNextWord, add64, shaWindow_getD, Nat.reduceLT, Nat.add_zero]

/-- Settles O21: the sixteen message words, then the recurrence at the round sixteen before. -/
theorem shaScheduleRecurrence : Obligations.ShaScheduleRecurrence := by
  refine fun block => ⟨fun t ht => shaWord_of_lt block ht, fun t hlo _ => ?_⟩
  obtain ⟨r, rfl⟩ := Nat.exists_eq_add_of_le' hlo
  exact shaWord_add_sixteen block r

end Sys2Proof.Machine
end

section
/-! The MD5 compression family (44_md5_compression.md): the engine's step as MD5ROUND while RND < 64, and as the
feed-forward with complete_block() from RND = 64 on. -/

namespace Sys2Proof.Machine

/-! ### The engine's move when ALG = MD5 (R210) -/

/-- Below 64 rounds the engine's move is a round. -/
theorem step_md5_round {s s0 : State} (hm : EngineMoves s s0) (hb : s0.busy = true) (ha : s0.alg = .md5)
    (hr : s0.rnd.toNat < 64) : step s = .next (md5RoundStep s0) := by
  rw [step_engineMoves hm, engineTurn_busy s0 hb]
  simp [engineStep, ha, rounds, hr]

/-- From 64 rounds on the engine's move is the feed-forward. -/
theorem step_md5_feed {s s0 : State} (hm : EngineMoves s s0) (hb : s0.busy = true) (ha : s0.alg = .md5)
    (hr : 64 ≤ s0.rnd.toNat) : step s = .next (md5Feed s0) := by
  rw [step_engineMoves hm, engineTurn_busy s0 hb]
  simp [engineStep, ha, rounds, hr.not_gt]

/-! ### MD5ROUND (R160, R161) -/

/-- Storing MD5 registers writes a, b, c, d to entries 0..3, zero-extended. -/
theorem regAt_storeMd5_low (r : Vector DWord 8) (m : Md5Regs) :
    regAt (storeMd5 r m) 0 = zext64 m.a ∧ regAt (storeMd5 r m) 1 = zext64 m.b ∧
      regAt (storeMd5 r m) 2 = zext64 m.c ∧ regAt (storeMd5 r m) 3 = zext64 m.d := by
  simp [storeMd5, regAt_updateRegs]

/-- Every round uses one of the sixteen message words (R123). -/
theorem idxMd5_lt {t : Nat} (ht : t < 64) : idxMd5 t < 16 := by
  rw [idxMd5_eq t ht]
  split_ifs <;> omega

/-- The word of round `t`, read straight from BUF: its four bytes lie inside the block (R150, R151). -/
theorem md5RoundWord_blockOf (buf : Vector Byte 128) {t : Nat} (ht : t < 64) :
    md5RoundWord (blockOf .md5 buf) t =
      bufByte buf (4 * idxMd5 t + 3) ++ bufByte buf (4 * idxMd5 t + 2) ++ bufByte buf (4 * idxMd5 t + 1) ++
        bufByte buf (4 * idxMd5 t) := by
  have hj := idxMd5_lt ht
  have hbyte : ∀ k < 4 * idxMd5 t + 4, byteAt (blockOf .md5 buf) k = bufByte buf k :=
    fun k hk => byteAt_blockOf .md5 buf k (show k < 64 by omega)
  rw [md5RoundWord, md5Word, fromLe32, hbyte _ (by omega), hbyte _ (by omega), hbyte _ (by omega), hbyte _ (by omega)]

/-- Settles O22: the step is MD5ROUND(RND), whose registers are read back entry by entry. Only the new b needs more than
its definition, for the message word is read from BUF and not from the block. (The model's own `md5RoundStep` has the
obligation's name.) -/
theorem stepIsMd5RoundStep : Obligations.Md5RoundStep := by
  intro s s0 hm hb ha hr
  obtain ⟨xs, rfl⟩ : ∃ xs, s0 = { s with inputs := xs } := ⟨_, hm.eq⟩
  obtain ⟨hv0, hv1, hv2, hv3⟩ :=
    regAt_storeMd5_low s.v (md5Round (blockOf .md5 s.buf) s.rnd.toNat (loadMd5 s.v))
  refine ⟨md5RoundStep _, step_md5_round hm hb ha hr, rfl, hv0, hv1.trans ?_, hv2, hv3,
    regAt_storeMd5_high s.v _⟩
  rw [md5Round, md5RoundWord_blockOf s.buf hr]
  rfl

/-! ### MD5FEED (R163) -/

/-- The feed-forward adds the low words of H and V into H[0..3], zero-extended. -/
theorem regAt_md5FeedH_low (h v : Vector DWord 8) {i : Nat} (hi : i < 4) :
    regAt (md5FeedH h v) i = zext64 (lowWord (regAt h i) + lowWord (regAt v i)) := by
  rw [md5FeedH, regAt_updateRegs _ _ _ (by omega), if_pos hi]
  rfl

/-- The feed-forward leaves H[4..7] alone. -/
theorem regAt_md5FeedH_high (h v : Vector DWord 8) {i : Nat} (hi : 4 ≤ i) (h8 : i < 8) :
    regAt (md5FeedH h v) i = regAt h i := by
  rw [md5FeedH, regAt_updateRegs _ _ _ h8, if_neg hi.not_gt]

/-- complete_block() completes the block of any state, whatever H the feed-forward gave it (R211, R137). -/
theorem completesBlock_completeBlock (s : State) (h : Vector DWord 8) :
    CompletesBlock s (completeBlock { s with h := h }) := by
  obtain ⟨-, hframe⟩ := completeBlock_frame { s with h := h }
  rcases completeBlock_cases { s with h := h } with ⟨hp, hn, e⟩ | ⟨hp, hn, e⟩ | ⟨hp, e⟩
  · refine ⟨fun _ _ => ?_, fun _ hn' => absurd hn hn', fun hp' => absurd hp hp', hframe⟩
    rw [e]
    exact ⟨hp, rfl, rfl, rfl, rfl, rfl, bufByte_padSecondBuf s.alg s.len s.buf⟩
  · refine ⟨fun _ hn' => absurd hn' hn, fun _ _ => ?_, fun hp' => absurd hp hp', hframe⟩
    rw [e]
    exact ⟨rfl, rfl, rfl, rfl, rfl, rfl, rfl⟩
  · refine ⟨fun hp' => absurd hp' hp, fun hp' => absurd hp' hp, fun _ => ?_, hframe⟩
    rw [e]
    exact ⟨rfl, rfl, rfl, rfl, rfl, rfl, rfl⟩

/-- H after MD5FEED is that of the feed-forward: completing the block does not touch it. -/
@[simp] theorem md5Feed_h (s : State) : (md5Feed s).h = md5FeedH s.h s.v :=
  (completeBlock_frame { s with h := md5FeedH s.h s.v }).1

/-- Settles O24: the step is MD5FEED, H by the feed-forward and the rest by complete_block(). -/
theorem md5FeedForward : Obligations.Md5FeedForward := by
  intro s s0 hm hb ha hr
  obtain ⟨xs, rfl⟩ : ∃ xs, s0 = { s with inputs := xs } := ⟨_, hm.eq⟩
  refine ⟨md5Feed _, step_md5_feed hm hb ha hr.ge, completesBlock_completeBlock _ _, fun i hi => ?_,
    fun i hi h8 => ?_⟩
  · rw [md5Feed_h]
    exact regAt_md5FeedH_low s.h s.v hi
  · rw [md5Feed_h]
    exact regAt_md5FeedH_high s.h s.v hi h8

end Sys2Proof.Machine
end

section
/-! The SHA-512 compression family (45_sha512_compression.md): the engine's step as SHA512ROUND while RND < 80, and as
the feed-forward with complete_block() from RND = 80 on. -/

namespace Sys2Proof.Machine

/-! ### The engine's move when ALG = SHA-512 (R210) -/

/-- Below 80 rounds the engine's move is a round. -/
theorem step_sha512_round {s s0 : State} (hm : EngineMoves s s0) (hb : s0.busy = true) (ha : s0.alg = .sha512)
    (hr : s0.rnd.toNat < 80) : step s = .next (sha512RoundStep s0) := by
  rw [step_engineMoves hm, engineTurn_busy s0 hb]
  simp [engineStep, ha, rounds, hr]

/-- From 80 rounds on the engine's move is the feed-forward. -/
theorem step_sha512_feed {s s0 : State} (hm : EngineMoves s s0) (hb : s0.busy = true) (ha : s0.alg = .sha512)
    (hr : 80 ≤ s0.rnd.toNat) : step s = .next (sha512Feed s0) := by
  rw [step_engineMoves hm, engineTurn_busy s0 hb]
  simp [engineStep, ha, rounds, hr.not_gt]

/-! ### SHA512ROUND (R170, R171) -/

/-- Storing SHA-512 registers writes a .. h to entries 0..7. -/
theorem regAt_storeSha (r : Vector DWord 8) (m : Sha512Regs) :
    regAt (storeSha r m) 0 = m.a ∧ regAt (storeSha r m) 1 = m.b ∧ regAt (storeSha r m) 2 = m.c ∧
      regAt (storeSha r m) 3 = m.d ∧ regAt (storeSha r m) 4 = m.e ∧ regAt (storeSha r m) 5 = m.f ∧
      regAt (storeSha r m) 6 = m.g ∧ regAt (storeSha r m) 7 = m.h := by
  simp [storeSha, regAt_updateRegs]

/-- Settles O23: the step is SHA512ROUND(RND), and entry by entry V then holds the registers of that round, which are the
statement's T1, T2 and moved registers by definition. (The model's own `sha512RoundStep` has the obligation's name.) -/
theorem stepIsSha512RoundStep : Obligations.Sha512RoundStep := by
  intro s s0 hm hb ha hr
  obtain ⟨xs, rfl⟩ : ∃ xs, s0 = { s with inputs := xs } := ⟨_, hm.eq⟩
  exact ⟨sha512RoundStep _, step_sha512_round hm hb ha hr, rfl,
    regAt_storeSha s.v (sha512Round (shaWord (blockOf .sha512 s.buf) s.rnd.toNat) s.rnd.toNat (loadSha s.v))⟩

/-! ### SHA512FEED (R173) -/

/-- The feed-forward adds V into H, all eight entries. -/
theorem regAt_sha512FeedH (h v : Vector DWord 8) {i : Nat} (hi : i < 8) :
    regAt (sha512FeedH h v) i = regAt h i + regAt v i :=
  regAt_updateRegs h _ i hi

/-- H after SHA512FEED is that of the feed-forward: completing the block does not touch it. -/
@[simp] theorem sha512Feed_h (s : State) : (sha512Feed s).h = sha512FeedH s.h s.v :=
  (completeBlock_frame { s with h := sha512FeedH s.h s.v }).1

/-- Settles O25: the step is SHA512FEED, H by the feed-forward and the rest by complete_block(). -/
theorem sha512FeedForward : Obligations.Sha512FeedForward := by
  intro s s0 hm hb ha hr
  obtain ⟨xs, rfl⟩ : ∃ xs, s0 = { s with inputs := xs } := ⟨_, hm.eq⟩
  refine ⟨sha512Feed _, step_sha512_feed hm hb ha hr.ge, completesBlock_completeBlock _ _, fun i hi => ?_⟩
  rw [sha512Feed_h]
  exact regAt_sha512FeedH s.h s.v hi

end Sys2Proof.Machine
end

section
/-! The digest family (46_digest.md): the bytes of the digest in H, and what the read-out commands RDBYTE, RDHEX, RDB64 and
RDCHAIN do when they pass their checks, and the errors they are rejected with. -/

namespace Sys2Proof.Machine

/-! ### The bytes of the digest (R180, R181) -/

/-- Byte `k` of `le_n` is byte `k` of the value, counted from the low end (R10). -/
theorem byteAt_leBytes {n k w : Nat} (x : BitVec w) (hk : k < n) :
    byteAt (leBytes n x.toNat) k = x.extractLsb' (8 * k) 8 := by
  rw [byteAt, leBytes, List.getD_eq_getElem _ _ (by simpa using hk), List.getElem_map, List.getElem_range]
  rfl

/-- Byte `k` of `be_n` is byte `k` of the value, counted from the high end (R10). -/
theorem byteAt_beBytes {n k w : Nat} (x : BitVec w) (hk : k < n) :
    byteAt (beBytes n x.toNat) k = x.extractLsb' (8 * (n - 1 - k)) 8 := by
  rw [← byteAt_leBytes x (show n - 1 - k < n by omega), byteAt, byteAt, beBytes, List.getD_eq_getElem?_getD,
    List.getD_eq_getElem?_getD, List.getElem?_reverse (by simpa using hk), leBytes_length]

/-- A concatenation of `m` sequences of `n` bytes has `m * n` bytes. -/
theorem length_flatMap_range {f : Nat → List Byte} {n : Nat} (hf : ∀ i, (f i).length = n) (m : Nat) :
    ((List.range m).flatMap f).length = m * n := by
  simp [List.length_flatMap, hf]

/-- In a concatenation of sequences of `n` bytes, byte `n * i + k` is byte `k` of sequence `i`. -/
theorem byteAt_flatMap_range {f : Nat → List Byte} {n m i k : Nat} (hf : ∀ j, (f j).length = n) (hi : i < m)
    (hk : k < n) : byteAt ((List.range m).flatMap f) (n * i + k) = byteAt (f i) k := by
  induction m with
  | zero => omega
  | succ m ih =>
    have hlen : ((List.range m).flatMap f).length = n * m := by rw [length_flatMap_range hf, Nat.mul_comm]
    rw [List.range_succ, List.flatMap_append, List.flatMap_singleton]
    rcases Nat.lt_succ_iff_lt_or_eq.mp hi with him | rfl
    · have hlt : n * i + k < n * m := by
        calc n * i + k < n * (i + 1) := by rw [Nat.mul_succ]; omega
          _ ≤ n * m := Nat.mul_le_mul_left n him
      rw [byteAt, List.getD_append _ _ _ _ (by rwa [hlen])]
      exact ih him
    · rw [byteAt, List.getD_append_right _ _ _ _ (by omega), hlen, Nat.add_sub_cancel_left]
      rfl

/-- The low four bytes of a value are those of its low word. -/
theorem extractLsb'_lowWord (x : DWord) {k : Nat} (hk : k < 4) :
    (lowWord x).extractLsb' (8 * k) 8 = x.extractLsb' (8 * k) 8 := by
  apply BitVec.eq_of_getLsbD_eq
  intro i hi
  have : 8 * k + i < 32 := by omega
  simp [lowWord, this]

/-- The digest has DL bytes (R7). -/
@[simp] theorem digestBytes_length (alg : Alg) (h : Vector DWord 8) : (digestBytes alg h).length = digestLen alg := by
  cases alg
  · exact length_flatMap_range (fun _ => leBytes_length _ _) 4
  · exact length_flatMap_range (fun _ => beBytes_length _ _) 8

/-- The MD5 digest is H[0..3] word by word, little-endian (R180). -/
theorem byteAt_digestBytes_md5 (h : Vector DWord 8) {i k : Nat} (hi : i < 4) (hk : k < 4) :
    byteAt (digestBytes .md5 h) (4 * i + k) = (regAt h i).extractLsb' (8 * k) 8 := by
  rw [digestBytes, byteAt_flatMap_range (fun _ => leBytes_length _ _) hi hk, byteAt_leBytes _ hk,
    extractLsb'_lowWord _ hk]

/-- The SHA-512 digest is H[0..7] word by word, big-endian (R181). -/
theorem byteAt_digestBytes_sha512 (h : Vector DWord 8) {i k : Nat} (hi : i < 8) (hk : k < 8) :
    byteAt (digestBytes .sha512 h) (8 * i + k) = (regAt h i).extractLsb' (56 - 8 * k) 8 := by
  rw [digestBytes, byteAt_flatMap_range (fun _ => beBytes_length _ _) hi hk, byteAt_beBytes _ hk,
    show 8 * (8 - 1 - k) = 56 - 8 * k by omega]

/-- Settles O32: the digest is the concatenation of the words' bytes, each word in its algorithm's order. -/
theorem digestByteOrder : Obligations.DigestByteOrder := fun h =>
  ⟨digestBytes_length .md5 h, digestBytes_length .sha512 h, fun _ _ => byteAt_digestBytes_md5 h,
    fun _ _ => byteAt_digestBytes_sha512 h⟩

/-! ### What the read-out commands share (R203) -/

/-- A command that passes its checks has its effect. -/
theorem exec_of_accepted {i : Instr} {s : State} (h : rejection i s = none) : exec i s = effectOf i s :=
  (exec_eq_guarded i s).trans (guarded_of_none i s _ h)

/-- While BUSY = 0 and in a legal phase, a command is rejected with E_RANGE when its operands are out of range. -/
theorem rejects_range {i : Instr} {s : State} (hb : s.busy = false) (hp : legalPhase i s.phase = true)
    (hr : inRange i s.alg = false) : Rejects i s .eRange :=
  rejects_of_rejection (rejection_range i s hb hp hr)

/-- A command that reads element IDX of the digest: legal in DONE only, with IDX below the number of elements. -/
structure ReadsDigest (read : Nat → Instr) (count : Alg → Nat) : Prop where
  ne_nop : ∀ idx, read idx ≠ .nop
  ne_absorb : ∀ idx b, read idx ≠ .absorb b
  legalPhase_eq : ∀ idx p, legalPhase (read idx) p = (p == .done)
  inRange_eq : ∀ idx alg, inRange (read idx) alg = decide (idx < count alg)

/-- RDBYTE reads one of the DL digest bytes (R185). -/
theorem readsDigest_rdbyte : ReadsDigest .rdbyte digestLen := ⟨nofun, nofun, fun _ _ => rfl, fun _ _ => rfl⟩

/-- RDHEX reads one of the characters of the hex text (R186). -/
theorem readsDigest_rdhex : ReadsDigest .rdhex hexLen := ⟨nofun, nofun, fun _ _ => rfl, fun _ _ => rfl⟩

/-- RDB64 reads one of the characters of the base64 text (R187). -/
theorem readsDigest_rdb64 : ReadsDigest .rdb64 b64Len := ⟨nofun, nofun, fun _ _ => rfl, fun _ _ => rfl⟩

namespace ReadsDigest

variable {read : Nat → Instr} {count : Alg → Nat} {idx : Nat} {s : State}

/-- The phase check passes in DONE. -/
theorem legalPhase_of_done (hread : ReadsDigest read count) (hp : s.phase = .done) :
    legalPhase (read idx) s.phase = true := by
  rw [hread.legalPhase_eq, hp]
  rfl

/-- While BUSY = 1 the command is rejected with E_BUSY. -/
theorem rejects_eBusy (hread : ReadsDigest read count) (hb : s.busy = true) : Rejects (read idx) s .eBusy :=
  rejects_busy (hread.ne_nop idx) hb

/-- Outside DONE, not busy, the command is rejected with E_SEQUENCE (R204). -/
theorem rejects_eSequence (hread : ReadsDigest read count) (hb : s.busy = false) (hp : s.phase ≠ .done) :
    Rejects (read idx) s .eSequence :=
  rejects_sequence hb ((hread.legalPhase_eq idx s.phase).trans (beq_eq_false_iff_ne.mpr hp))

/-- In DONE, not busy, the command is rejected with E_RANGE when IDX is out of range (R73). -/
theorem rejects_eRange (hread : ReadsDigest read count) (hb : s.busy = false) (hp : s.phase = .done) {alg : Alg}
    (ha : s.alg = alg) (hidx : count alg ≤ idx) : Rejects (read idx) s .eRange :=
  rejects_range hb (hread.legalPhase_of_done hp)
    ((hread.inRange_eq idx s.alg).trans (decide_eq_false (by rw [ha]; exact hidx.not_gt)))

/-- In DONE, not busy and with IDX in range, the command has its effect. -/
theorem exec_eq (hread : ReadsDigest read count) (hb : s.busy = false) (hp : s.phase = .done)
    (hidx : idx < count s.alg) : exec (read idx) s = effectOf (read idx) s :=
  exec_of_accepted ((rejection_none_iff _ s).mpr
    ⟨.inl hb, hread.legalPhase_of_done hp, (hread.inRange_eq idx s.alg).trans (decide_eq_true hidx),
      fun b h => absurd h (hread.ne_absorb idx b)⟩)

end ReadsDigest

/-! ### RDBYTE (R185) -/

/-- Digest byte IDX of MD5, by the word and the byte in it. -/
theorem byteAt_digestBytes_md5_of_lt (h : Vector DWord 8) {idx : Nat} (hidx : idx < 16) :
    byteAt (digestBytes .md5 h) idx = (regAt h (idx / 4)).extractLsb' (8 * (idx % 4)) 8 := by
  rw [← byteAt_digestBytes_md5 h (show idx / 4 < 4 by omega) (Nat.mod_lt idx (by decide)), Nat.div_add_mod]

/-- Digest byte IDX of SHA-512, by the word and the byte in it. -/
theorem byteAt_digestBytes_sha512_of_lt (h : Vector DWord 8) {idx : Nat} (hidx : idx < 64) :
    byteAt (digestBytes .sha512 h) idx = (regAt h (idx / 8)).extractLsb' (56 - 8 * (idx % 8)) 8 := by
  rw [← byteAt_digestBytes_sha512 h (show idx / 8 < 8 by omega) (Nat.mod_lt idx (by decide)), Nat.div_add_mod]

/-- RDBYTE in DONE puts digest byte IDX in RESULT. -/
theorem exec_rdbyte_of_done {idx : Nat} {s : State} (hb : s.busy = false) (hp : s.phase = .done) {alg : Alg}
    (ha : s.alg = alg) (hidx : idx < digestLen alg) :
    exec (.rdbyte idx) s = .next { s with result := (byteAt (digestBytes alg s.h) idx).setWidth 32 } := by
  subst ha
  exact readsDigest_rdbyte.exec_eq hb hp hidx

/-- Settles O41: RDBYTE puts the digest byte in RESULT, and O32's byte orders say which byte that is. -/
theorem rdbyteReadsDigestByte : Obligations.RdbyteReadsDigestByte := by
  refine ⟨fun _ _ => readsDigest_rdbyte.rejects_eBusy, fun _ _ => readsDigest_rdbyte.rejects_eSequence, ?_,
    rejectsIllegalForms 0x04⟩
  intro idx s hb hp
  refine ⟨readsDigest_rdbyte.rejects_eRange hb hp, readsDigest_rdbyte.rejects_eRange hb hp, fun ha hidx => ?_,
    fun ha hidx => ?_⟩
  · rw [exec_rdbyte_of_done hb hp ha hidx, byteAt_digestBytes_md5_of_lt s.h hidx]
  · rw [exec_rdbyte_of_done hb hp ha hidx, byteAt_digestBytes_sha512_of_lt s.h hidx]

/-! ### RDHEX (R186) -/

/-- The ASCII code of a hex digit, as the number RESULT takes (R182). -/
theorem zext32_hexDigit (n : BitVec 4) :
    zext32 (hexDigit n) = BitVec.ofNat 32 (if n.toNat < 10 then 0x30 + n.toNat else 0x61 + (n.toNat - 10)) := by
  revert n
  decide

/-- The high nibble of a byte, as a number. -/
theorem toNat_highNibble (b : Byte) : (b.extractLsb' 4 4).toNat = b.toNat / 16 := by
  have := b.isLt
  rw [BitVec.extractLsb'_toNat, Nat.shiftRight_eq_div_pow]
  omega

/-- The low nibble of a byte, as a number. -/
theorem toNat_lowNibble (b : Byte) : (b.extractLsb' 0 4).toNat = b.toNat % 16 := by
  rw [BitVec.extractLsb'_toNat, Nat.shiftRight_zero]

/-- Hex character `i` is the digit of the high nibble of byte `i / 2` when `i` is even, of the low one when it is odd. -/
theorem zext32_hexChar (d : List Byte) (i : Nat) :
    zext32 (hexChar d i) =
      let byte := (byteAt d (i / 2)).toNat
      let nibble := if i % 2 = 0 then byte / 16 else byte % 16
      BitVec.ofNat 32 (if nibble < 10 then 0x30 + nibble else 0x61 + (nibble - 10)) := by
  rw [hexChar]
  by_cases hi : i % 2 = 0
  · simp only [if_pos hi, zext32_hexDigit, toNat_highNibble]
  · simp only [if_neg hi, zext32_hexDigit, toNat_lowNibble]

/-- Settles O42: RDHEX puts the hex character in RESULT, which is the digit of its nibble. -/
theorem rdhexReadsHexDigit : Obligations.RdhexReadsHexDigit := by
  refine ⟨fun _ _ => readsDigest_rdhex.rejects_eBusy, fun _ _ => readsDigest_rdhex.rejects_eSequence, ?_,
    rejectsIllegalForms 0x05⟩
  intro idx s hb hp
  refine ⟨readsDigest_rdhex.rejects_eRange hb hp, readsDigest_rdhex.rejects_eRange hb hp, fun hidx => ?_⟩
  have hlt : idx < hexLen s.alg := by
    revert hidx
    cases s.alg <;> exact id
  rw [readsDigest_rdhex.exec_eq hb hp hlt, effectOf, zext32_hexChar]
  rfl

/-! ### RDB64 (R187) -/

/-- The base64 text of the digest, character by character (R183). -/
theorem byteAt_b64Text_digestBytes (alg : Alg) (h : Vector DWord 8) {idx : Nat} (hidx : idx < b64Len alg) :
    byteAt (b64Text (digestBytes alg h)) idx = b64Char (digestBytes alg h) idx := by
  rw [b64Text, digestBytes_length, byteAt, List.getD_eq_getElem _ _ (by simpa [b64Len] using hidx),
    List.getElem_map, List.getElem_range]

/-- Settles O43: RDB64 puts the base64 character in RESULT, which is that of the digest's text. -/
theorem rdb64ReadsBase64Character : Obligations.Rdb64ReadsBase64Character := by
  refine ⟨fun _ _ => readsDigest_rdb64.rejects_eBusy, fun _ _ => readsDigest_rdb64.rejects_eSequence, ?_,
    rejectsIllegalForms 0x06⟩
  intro idx s hb hp
  refine ⟨readsDigest_rdb64.rejects_eRange hb hp, readsDigest_rdb64.rejects_eRange hb hp, fun hidx => ?_⟩
  have hlt : idx < b64Len s.alg := by
    revert hidx
    cases s.alg <;> exact id
  rw [readsDigest_rdb64.exec_eq hb hp hlt, byteAt_b64Text_digestBytes s.alg s.h hlt]
  rfl

/-! ### RDCHAIN (R188) -/

/-- RDCHAIN is legal in ABSORB and in DONE (R204). -/
theorem legalPhase_rdchain_iff (j : Nat) (half : Half) (p : Phase) :
    legalPhase (.rdchain j half) p = true ↔ p = .absorb ∨ p = .done := by
  simp [legalPhase]

/-- RDCHAIN's operands name a half of the chaining value that the algorithm has (R73). -/
theorem inRange_rdchain_iff (j : Nat) (half : Half) (alg : Alg) :
    inRange (.rdchain j half) alg = true ↔ (alg = .md5 ∧ j < 4 ∧ half = .lo) ∨ (alg = .sha512 ∧ j < 8) := by
  cases alg <;> simp [inRange]

/-- RDCHAIN in ABSORB or in DONE is rejected when its operands name no half the algorithm has. -/
theorem rejects_rdchain_range {j : Nat} {half : Half} {s : State} (hb : s.busy = false)
    (hp : s.phase = .absorb ∨ s.phase = .done)
    (hr : ¬ ((s.alg = .md5 ∧ j < 4 ∧ half = .lo) ∨ (s.alg = .sha512 ∧ j < 8))) :
    Rejects (.rdchain j half) s .eRange :=
  rejects_range hb ((legalPhase_rdchain_iff j half s.phase).mpr hp)
    (Bool.eq_false_iff.mpr (mt (inRange_rdchain_iff j half s.alg).mp hr))

/-- Settles O44: RDCHAIN puts the half that chainHalf names in RESULT. -/
theorem rdchainReadsChainingWord : Obligations.RdchainReadsChainingWord := by
  refine ⟨fun _ _ _ => rejects_busy nofun, fun j half s hb ha hd => ?_, fun j half s hb hp => ⟨?_, ?_, ?_⟩,
    rejectsIllegalForms 0x07⟩
  · refine rejects_sequence hb (Bool.eq_false_iff.mpr (mt (legalPhase_rdchain_iff j half s.phase).mp ?_))
    exact not_or.mpr ⟨ha, hd⟩
  · intro ha hout
    refine rejects_rdchain_range hb hp ?_
    rintro (⟨-, hj, rfl⟩ | ⟨hsha, -⟩)
    · exact hout.elim hj.not_ge nofun
    · simp [ha] at hsha
  · intro ha hout
    refine rejects_rdchain_range hb hp ?_
    rintro (⟨hmd5, -⟩ | ⟨-, hj⟩)
    · simp [ha] at hmd5
    · exact hj.not_ge hout
  · intro hr
    rw [exec_of_accepted ((rejection_none_iff _ s).mpr
      ⟨.inl hb, (legalPhase_rdchain_iff j half s.phase).mpr hp, (inRange_rdchain_iff j half s.alg).mpr hr, nofun⟩)]
    cases half <;> rfl

end Sys2Proof.Machine
end

section
/-! The control family (47_control.md): NOP, INIT and CLRERR, whose illegal words, rejections and effects the statements
give in turn. -/

namespace Sys2Proof.Machine

/-! ### NOP (R200) -/

/-- NOP passes its checks in every state, busy or not. -/
theorem rejection_nop_eq_none (s : State) : rejection .nop s = none :=
  (rejection_none_iff _ s).mpr ⟨.inr rfl, rfl, rfl, nofun⟩

/-- Settles O35: NOP passes every check and has no effect. -/
theorem nopChangesNothing : Obligations.NopChangesNothing :=
  ⟨fun s => exec_of_accepted (rejection_nop_eq_none s), fun _ _ hb hi => rejects_busy hi hb, rejectsIllegalForms 0x00⟩

/-! ### INIT (R201) -/

/-- The entries of the chaining value INIT of MD5 does not use are zero (R201). -/
theorem regAt_initH_md5_high {i : Nat} (hi : 4 ≤ i) (h8 : i < 8) : regAt (initH .md5) i = 0 := by
  rw [regAt_of_lt _ _ h8, initH, Vector.getElem_ofFn, if_neg hi.not_gt]

/-- INIT of SHA-512 loads IV_SHA512 (R201). -/
theorem regAt_initH_sha512 {i : Nat} (hi : i < 8) : regAt (initH .sha512) i = ivSha i := by
  rw [regAt_of_lt _ _ hi, initH, Vector.getElem_ofFn]

/-- Settles O36: INIT's effect is beginDigest, whose H is read entry by entry. -/
theorem initBeginsDigest : Obligations.InitBeginsDigest := by
  refine ⟨fun _ _ => rejects_busy nofun, fun alg s hb => ?_, rejectsIllegalForms 0x01⟩
  refine ⟨beginDigest alg s, exec_init_of_not_busy alg hb, rfl, ?_, ?_⟩
  · rintro rfl i h8
    split
    next hi => exact regAt_initH_md5 hi
    next hi => exact regAt_initH_md5_high (not_lt.mp hi) h8
  · rintro rfl i h8
    exact regAt_initH_sha512 h8

/-! ### CLRERR (R202) -/

/-- Settles O37: CLRERR passes its checks exactly when not busy, and its effect is clearError. -/
theorem clrerrClearsErrorRecord : Obligations.ClrerrClearsErrorRecord :=
  ⟨fun _ => rejects_busy nofun, fun s hb => exec_of_accepted ((rejection_clrerr_eq_none_iff s).mpr hb),
    rejectsIllegalForms 0x08⟩

end Sys2Proof.Machine
end

section
/-! The encoder, the decoder and the assembler against each other (30_encoding.md sections 1 to 5). -/

namespace Sys2Proof

/-! ### Encoder and decoder are inverse (R71, R72, R75) -/

@[simp] theorem opcField_commandWord (opc : BitVec 8) (operand : BitVec 16) :
    opcField (commandWord opc operand) = opc := by
  unfold commandWord opcField
  repeat rw [BitVec.extractLsb'_append_eq_of_le (by decide)]
  exact BitVec.extractLsb'_eq_self

@[simp] theorem rsvField_commandWord (opc : BitVec 8) (operand : BitVec 16) :
    rsvField (commandWord opc operand) = 0 := by
  unfold commandWord rsvField
  rw [BitVec.extractLsb'_append_eq_of_le (by decide)]
  exact BitVec.extractLsb'_append_eq_right

@[simp] theorem operandField_commandWord (opc : BitVec 8) (operand : BitVec 16) :
    operandField (commandWord opc operand) = operand :=
  BitVec.extractLsb'_append_eq_right

/-- Form ALGSEL reads back the algorithm it was given. -/
@[simp] theorem decodeAlgSel_operandAlgSel (alg : Alg) (i : Alg → Instr) :
    decodeAlgSel (operandAlgSel alg) i = .command (i alg) := by
  cases alg <;> rfl

/-- Forms IMM8 and IDX8 read back the byte they were given. -/
@[simp] theorem decodeByte_operandByte (b : BitVec 8) (i : BitVec 8 → Instr) :
    decodeByte (operandByte b) i = .command (i b) := by
  have hzero : (operandByte b).extractLsb' 8 8 = 0 := by
    rw [operandByte, BitVec.extractLsb'_append_eq_of_le (by decide)]
    rfl
  have hbyte : (operandByte b).extractLsb' 0 8 = b := BitVec.extractLsb'_append_eq_right
  rw [decodeByte, if_pos hzero, hbyte]

/-- Form CHAIN reads back the entry and the half it was given. -/
@[simp] theorem decodeChain_operandChain (j : BitVec 4) (half : Half) (i : BitVec 4 → Half → Instr) :
    decodeChain (operandChain j half) i = .command (i j half) := by
  have hzero : (operandChain j half).extractLsb' 5 11 = 0 := by
    rw [operandChain, BitVec.extractLsb'_append_eq_of_le (by decide), BitVec.extractLsb'_append_eq_of_le (by decide)]
    rfl
  have hj : (operandChain j half).extractLsb' 0 4 = j := BitVec.extractLsb'_append_eq_right
  have hhalf : (operandChain j half).extractLsb' 4 1 = half.bit := by
    rw [operandChain, BitVec.extractLsb'_append_eq_of_le (by decide)]
    exact BitVec.extractLsb'_append_eq_right
  rw [decodeChain, if_pos hzero, hj, hhalf]
  cases half <;> rfl

/-- A command whose operands fit their fields is what its word decodes to. -/
theorem decode_encode {i : Instr} (h : i.WellFormed) : decode (encode i) = .command i := by
  cases i with
  | nop | init _ | absorb _ | final | clrerr => simp [encode, decode, decodeNone]
  | rdbyte idx | rdhex idx | rdb64 idx =>
    have hidx : idx < 256 := of_decide_eq_true h
    simp [encode, decode, Nat.mod_eq_of_lt hidx]
  | rdchain j half =>
    have hj : j < 16 := of_decide_eq_true h
    simp [encode, decode, Nat.mod_eq_of_lt hj]

/-- Operands read from a word fit their fields. -/
theorem wellFormed_of_readFrom {i : Instr} {w : Word} (h : i.ReadFrom w) : i.WellFormed := by
  cases i with
  | nop | init _ | absorb _ | final | clrerr => rfl
  | rdbyte _ | rdhex _ | rdb64 _ => exact decide_eq_true (h ▸ (w.extractLsb' 0 8).isLt)
  | rdchain _ _ => exact decide_eq_true (h.1 ▸ (w.extractLsb' 0 4).isLt)

theorem algOfBit_injective : Function.Injective algOfBit := by decide

theorem halfOfBit_injective : Function.Injective halfOfBit := by decide

/-- Five bits are the fifth above the lower four. -/
theorem extractLsb'_five (w : Word) : w.extractLsb' 0 5 = w.extractLsb' 4 1 ++ w.extractLsb' 0 4 :=
  (BitVec.extractLsb'_append_extractLsb'_eq_extractLsb' (start₂ := 4) (len₂ := 1) (start₁ := 0) (len₁ := 4) rfl).symm

/-- The operand bits of a word are determined by the operands read from it. -/
theorem operand_eq_of_readFrom {i : Instr} {w u : Word} (hw : i.ReadFrom w) (hu : i.ReadFrom u) :
    w.extractLsb' 0 (operandWidth i.opcode) = u.extractLsb' 0 (operandWidth i.opcode) := by
  cases i with
  | nop | final | clrerr => exact Subsingleton.elim (α := BitVec 0) _ _
  | init _ => exact algOfBit_injective (hw.symm.trans hu)
  | absorb _ => exact hw.symm.trans hu
  | rdbyte _ | rdhex _ | rdb64 _ => exact BitVec.eq_of_toNat_eq (hw.symm.trans hu)
  | rdchain _ _ =>
    obtain ⟨hjw, hhw⟩ := hw
    obtain ⟨hju, hhu⟩ := hu
    have hj : w.extractLsb' 0 4 = u.extractLsb' 0 4 := BitVec.eq_of_toNat_eq (hjw.symm.trans hju)
    have hhalf : w.extractLsb' 4 1 = u.extractLsb' 4 1 := halfOfBit_injective (hhw.symm.trans hhu)
    change w.extractLsb' 0 5 = u.extractLsb' 0 5
    rw [extractLsb'_five, extractLsb'_five, hj, hhalf]

/-- Words are equal when they agree above bit `lo` and below it. -/
theorem eq_of_high_low {w u : Word} {lo : Nat} (hhigh : w &&& BitVec.allOnes 32 <<< lo = u &&& BitVec.allOnes 32 <<< lo)
    (hlow : w.extractLsb' 0 lo = u.extractLsb' 0 lo) : w = u := by
  refine BitVec.eq_of_getLsbD_eq fun k hk => ?_
  by_cases hlo : k < lo
  · simpa [hlo] using congrArg (·.getLsbD k) hlow
  · have hbit := congrArg (·.getLsbD k) hhigh
    simp only [BitVec.getLsbD_and, getLsbD_shiftLeft_of_lt _ _ hk, BitVec.getLsbD_allOnes] at hbit
    simpa [show lo ≤ k by omega, show k - lo < 32 by omega] using hbit

/-- A command is decoded from one word only: its row fixes the bits above the operand, and its operands the rest. -/
theorem decode_injective {w u : Word} {i : Instr} (hw : decode w = .command i) (hu : decode u = .command i) : w = u := by
  obtain ⟨hselw, hreadw⟩ := selects_of_decode hw
  obtain ⟨hselu, hreadu⟩ := selects_of_decode hu
  have hmask := (row_pattern_mask i.row_mem).2
  rw [i.opcField_row] at hmask
  refine eq_of_high_low (lo := operandWidth i.opcode) ?_ (operand_eq_of_readFrom hreadw hreadu)
  rw [← hmask, hselw, hselu]

/-- Settles O1: the word of a command decodes to it, and no other word does. -/
theorem decodeEncodeRoundTrip : Obligations.DecodeEncodeRoundTrip := by
  refine ⟨fun i => decode_encode, fun w i hd => ?_⟩
  have hwf : i.WellFormed := wellFormed_of_readFrom (selects_of_decode hd).2
  exact ⟨hwf, decode_injective (decode_encode hwf) hd⟩

/-- Settles O3: the nine encodings decode back, and the four illegal words fail the test that V8 names. -/
theorem specWordsDecode : Obligations.SpecWordsDecode := by
  unfold Obligations.SpecWordsDecode
  decide

/-! ### The opcode map (R74) -/

/-- The opcodes of the map are all different. -/
theorem opcodeMap_opcodes_injective : ∀ r ∈ opcodeMap, ∀ q ∈ opcodeMap, opcField r.pattern = opcField q.pattern → r = q := by
  decide

/-- Settles O4: two rows that select a word both have its opcode. -/
theorem opcodeRowsDisjoint : Obligations.OpcodeRowsDisjoint := by
  intro w r q hr hq hselr hselq
  obtain ⟨hopcr, -⟩ := (row_selects_iff hr w).mp hselr
  obtain ⟨hopcq, -⟩ := (row_selects_iff hq w).mp hselq
  exact opcodeMap_opcodes_injective r hr q hq (hopcr.symm.trans hopcq)

/-! ### The assembler (R77, R78) -/

/-- The number a concatenation stands for. -/
theorem toNat_append_eq {n k : Nat} (x : BitVec n) (y : BitVec k) : (x ++ y).toNat = x.toNat * 2 ^ k + y.toNat := by
  rw [BitVec.toNat_append, ← Nat.shiftLeft_add_eq_or_of_lt y.isLt, Nat.shiftLeft_eq]

/-- A command word as the number the assembler adds up: opcode, then operand. -/
theorem toNat_commandWord (opc : BitVec 8) (operand : BitVec 16) :
    (commandWord opc operand).toNat = opc.toNat * 2 ^ 24 + operand.toNat := by
  rw [commandWord, toNat_append_eq, toNat_append_eq]
  simp
  omega

theorem toNat_operandByte (b : BitVec 8) : (operandByte b).toNat = b.toNat :=
  (toNat_append_eq 0 b).trans (by simp)

theorem toNat_operandChain (j : BitVec 4) (half : Half) :
    (operandChain j half).toNat = 16 * half.bit.toNat + j.toNat := by
  rw [operandChain, toNat_append_eq, toNat_append_eq]
  simp
  omega

end Sys2Proof

namespace Sys2Proof.Machine

/-- A number below its bound is added to the base word. -/
theorem assembleNat_of_lt {base : Word} {bound value : Nat} (h : value < bound) :
    assembleNat base bound value = some (base + BitVec.ofNat 32 value) := if_pos h

/-- A number that does not fit is refused. -/
theorem assembleNat_of_not_lt {base : Word} {bound value : Nat} (h : ¬ value < bound) :
    assembleNat base bound value = none := if_neg h

theorem lt_of_assembleNat {base w : Word} {bound value : Nat} (h : assembleNat base bound value = some w) :
    value < bound := by
  by_contra hge
  rw [assembleNat_of_not_lt hge] at h
  cases h

/-- A byte added to the base word of its opcode is the command's word. -/
theorem add_byte_eq_commandWord {opc : BitVec 8} {base : Word} (hbase : base.toNat = opc.toNat * 2 ^ 24) (b : BitVec 8) :
    base + BitVec.ofNat 32 b.toNat = commandWord opc (operandByte b) := by
  apply BitVec.eq_of_toNat_eq
  have := opc.isLt
  have := b.isLt
  rw [BitVec.toNat_add, toNat_commandWord, toNat_operandByte, hbase, BitVec.toNat_ofNat]
  omega

/-- An entry number added to RDCHAIN's base word for a half is the command's word. -/
theorem add_entry_eq_encode_rdchain {base : Word} {half : Half}
    (hbase : base.toNat = 0x07000000 + 16 * half.bit.toNat) {j : Nat} (hj : j < 16) :
    base + BitVec.ofNat 32 j = encode (.rdchain j half) := by
  apply BitVec.eq_of_toNat_eq
  have := half.bit.isLt
  rw [encode, BitVec.toNat_add, toNat_commandWord, toNat_operandChain, hbase, BitVec.toNat_ofNat, BitVec.toNat_ofNat]
  simp only [BitVec.toNat_ofNat, BitVec.ofNat_eq_ofNat]
  omega

/-- A byte number that fits assembles, on the base word of its opcode, to the command's word. -/
theorem assembleNat_byte {opc : BitVec 8} {base : Word} (hbase : base.toNat = opc.toNat * 2 ^ 24) {v : Nat}
    (hv : v < 256) : assembleNat base 256 v = some (commandWord opc (operandByte (BitVec.ofNat 8 v))) := by
  have hnat : (BitVec.ofNat 8 v).toNat = v := Nat.mod_eq_of_lt hv
  rw [assembleNat_of_lt hv, ← add_byte_eq_commandWord hbase, hnat]

/-- A well-formed command as R78 writes it assembles to its word. -/
theorem assemble_commandTokens {i : Instr} (h : i.WellFormed) : assemble (commandTokens i) = some (encode i) := by
  cases i with
  | nop | final | clrerr => rfl
  | init alg => cases alg <;> rfl
  | absorb b => exact (assembleNat_of_lt b.isLt).trans (congrArg some (add_byte_eq_commandWord rfl b))
  | rdbyte idx | rdhex idx | rdb64 idx => exact assembleNat_byte rfl (of_decide_eq_true h)
  | rdchain j half =>
    have hj : j < 16 := of_decide_eq_true h
    cases half <;> exact (assembleNat_of_lt hj).trans (congrArg some (add_entry_eq_encode_rdchain rfl hj))

/-- A command with an operand that does not fit its field is refused. -/
theorem assemble_commandTokens_eq_none {i : Instr} (h : ¬ i.WellFormed) : assemble (commandTokens i) = none := by
  cases i with
  | nop | init _ | absorb _ | final | clrerr => exact absurd rfl h
  | rdbyte _ | rdhex _ | rdb64 _ => exact assembleNat_of_not_lt (mt (decide_eq_true ·) h)
  | rdchain _ half => cases half <;> exact assembleNat_of_not_lt (mt (decide_eq_true ·) h)

/-- A command as R78 writes it assembles only if it is well-formed, and then its word decodes to it. -/
theorem decode_of_assemble_commandTokens {i : Instr} {w : Word} (h : assemble (commandTokens i) = some w) :
    i.WellFormed ∧ decode w = .command i := by
  by_cases hwf : i.WellFormed
  · obtain rfl := Option.some.inj ((assemble_commandTokens hwf).symm.trans h)
    exact ⟨hwf, decode_encode hwf⟩
  · cases (assemble_commandTokens_eq_none hwf).symm.trans h

/-- Every line that assembles is a command as R78 writes it, but for the second spellings of ABSORB and RDCHAIN. -/
theorem exists_command_of_assemble {line : List Token} {w : Word} (h : assemble line = some w) :
    ∃ i : Instr, i.WellFormed ∧ decode w = .command i := by
  have hcommand (i : Instr) (hi : assemble (commandTokens i) = some w) := decode_of_assemble_commandTokens hi
  unfold assemble at h
  -- One case per line of `assemble`, in its order; the last line refuses.
  split at h
  case h_1 => exact ⟨.nop, hcommand .nop h⟩
  case h_2 => exact ⟨.init .md5, hcommand (.init .md5) h⟩
  case h_3 => exact ⟨.init .sha512, hcommand (.init .sha512) h⟩
  case h_4 b =>
    have hb : (BitVec.ofNat 8 b).toNat = b := Nat.mod_eq_of_lt (lt_of_assembleNat h)
    exact ⟨.absorb (BitVec.ofNat 8 b), hcommand (.absorb _) (by rwa [commandTokens, hb])⟩
  case h_5 c => exact ⟨.absorb c, hcommand (.absorb c) h⟩
  case h_6 => exact ⟨.final, hcommand .final h⟩
  case h_7 i => exact ⟨.rdbyte i, hcommand (.rdbyte i) h⟩
  case h_8 i => exact ⟨.rdhex i, hcommand (.rdhex i) h⟩
  case h_9 i => exact ⟨.rdb64 i, hcommand (.rdb64 i) h⟩
  case h_10 j => exact ⟨.rdchain j .lo, hcommand (.rdchain j .lo) h⟩
  case h_11 j => exact ⟨.rdchain j .lo, hcommand (.rdchain j .lo) h⟩
  case h_12 j => exact ⟨.rdchain j .hi, hcommand (.rdchain j .hi) h⟩
  case h_13 => exact ⟨.clrerr, hcommand .clrerr h⟩
  case h_14 => cases h

/-- Settles O5: the second spellings assemble as the first ones of the same command do. -/
theorem assemblerAgreesWithDecoder : Obligations.AssemblerAgreesWithDecoder :=
  ⟨fun _ => assemble_commandTokens, fun c => assemble_commandTokens (i := .absorb c) rfl,
    fun j hj => assemble_commandTokens (i := .rdchain j .lo) (decide_eq_true hj),
    fun _ hj => assembleNat_of_not_lt (Nat.not_lt.mpr hj), fun _ => assemble_commandTokens_eq_none,
    fun _ _ => exists_command_of_assemble⟩

/-! ### A write of a command to CMD (R203) -/

/-- The next input's write of a command to CMD is a step of that command. -/
theorem step_command {s : State} {rest : List Input} {w : Word} {i : Instr} (h : s.inputs = .busWrite 32 0x00 w :: rest)
    (hd : decode w = .command i) : step s = exec i { s with inputs := rest } := by
  rw [step_write_admitted h rfl, busWrite_cmd, execCmd_command w i _ hd]

/-- A number that the host's view of the decoder gives a command for is that command's word. -/
theorem decode_of_decodeTableWord {w : Nat} {i : Instr} (h : decodeTableWord 32 w = some i) :
    decode (BitVec.ofNat 32 (w % 2 ^ 32)) = .command i := by
  rw [decodeTableWord, if_pos (Nat.mod_lt w (by decide))] at h
  cases hd : decode (BitVec.ofNat 32 (w % 2 ^ 32)) with
  | command j =>
    rw [hd] at h
    exact congrArg Decoded.command (Option.some.inj h)
  | illegal why =>
    rw [hd] at h
    cases h

/-- Settles O6: withFetchWord puts that write in front of the inputs. -/
theorem stepRunsDecodedCommand : Obligations.StepRunsDecodedCommand :=
  ⟨fun _ _ _ _ => step_command, fun _ _ _ h => step_command rfl (decode_of_decodeTableWord h)⟩

end Sys2Proof.Machine
end

section
/-! The exceptions family (60_exceptions.md): the error record, the order of the checks, what makes a step stop, and what
a step does that no command has a part in. -/

namespace Sys2Proof.Machine

/-! ### The error record and the order of the checks (R222, R223) -/

/-- Settles O8: raise Error looks at ERR alone. -/
theorem errorRecordIsStickyFirst : Obligations.ErrorRecordIsStickyFirst :=
  fun code s => ⟨raiseError_of_err code s, fun h => if_neg (Bool.eq_false_iff.mp h)⟩

/-- The errors a decoded command is rejected with: E_ILLEGAL is the decoder's (R203). -/
theorem rejection_code {i : Instr} {s : State} {code : ErrCode} (h : rejection i s = some code) :
    code = .eBusy ∨ code = .eSequence ∨ code = .eRange ∨ code = .eOverflow := by
  unfold rejection at h
  split at h
  next => exact .inl (Option.some.inj h).symm
  split at h
  next => exact .inr (.inl (Option.some.inj h).symm)
  split at h
  next => exact .inr (.inr (.inl (Option.some.inj h).symm))
  split at h
  next =>
    split at h
    next => exact .inr (.inr (.inr (Option.some.inj h).symm))
    next => cases h
  next => cases h

/-- Settles O9: each check is reported whatever the later ones would say. -/
theorem checksInPriorityOrder : Obligations.ChecksInPriorityOrder :=
  ⟨execCmd_illegal, fun _ _ hb hi => rejects_busy hi hb, fun _ _ => rejects_sequence, fun _ _ => rejects_range,
    fun b s hb hp hl => rejects_of_rejection (rejection_overflow b s hb hp hl), fun _ _ _ => rejection_code⟩

/-! ### Stops -/

/-- Only ABSORB and FINAL can fault, in a state with no byte of BUF at BUFCNT. -/
theorem effectOf_fault {i : Instr} {s : State} {f : Fault} (h : effectOf i s = .fault f) :
    128 ≤ s.bufcnt.toNat ∧ ((∃ b, i = .absorb b) ∨ i = .final) := by
  cases i with
  | nop | init _ | rdbyte _ | rdhex _ | rdb64 _ | rdchain _ _ | clrerr => cases h
  | absorb b =>
    by_cases hn : s.bufcnt.toNat < 128
    · cases (if_pos hn).symm.trans h
    · exact ⟨Nat.le_of_not_lt hn, .inl ⟨b, rfl⟩⟩
  | final =>
    by_cases hn : s.bufcnt.toNat < 128
    · cases (if_pos hn).symm.trans h
    · exact ⟨Nat.le_of_not_lt hn, .inr rfl⟩

/-- A command that faults has passed its checks. -/
theorem exec_fault {i : Instr} {s : State} {f : Fault} (h : exec i s = .fault f) :
    rejection i s = none ∧ 128 ≤ s.bufcnt.toNat ∧ ((∃ b, i = .absorb b) ∨ i = .final) := by
  rcases exec_cases i s with ⟨hr, he⟩ | ⟨code, -, he⟩
  · exact ⟨hr, effectOf_fault (he.symm.trans h)⟩
  · cases he.symm.trans h

theorem effectOf_ne_refused (i : Instr) (s : State) (r : Refusal) : effectOf i s ≠ .refused r := by
  intro h
  cases i with
  | nop | init _ | rdbyte _ | rdhex _ | rdb64 _ | rdchain _ _ | clrerr => cases h
  | absorb _ | final =>
    simp only [effectOf] at h
    split at h <;> cases h

/-- Every command has a meaning. -/
theorem exec_ne_refused (i : Instr) (s : State) (r : Refusal) : exec i s ≠ .refused r := by
  rcases exec_cases i s with ⟨-, he⟩ | ⟨code, -, he⟩ <;> rw [he]
  · exact effectOf_ne_refused i s r
  · nofun

/-- Settles O39: the fault is the effect of ABSORB and FINAL where BUF has no byte at BUFCNT. -/
theorem bufferIndexFault : Obligations.BufferIndexFault := by
  refine ⟨fun b s hb hp hl hn => ?_, fun s hb hp hn => ?_, fun i s f h => (exec_fault h).2⟩
  · exact (exec_of_accepted (rejection_absorb_eq_none b hb hp hl)).trans (if_neg hn.not_gt)
  · exact (exec_of_accepted (rejection_final_eq_none hb hp)).trans (if_neg hn.not_gt)

/-- The input is a bus access that R54 does not admit. -/
def NotAdmitted (x : Input) : Prop :=
  ∃ bits off, admitted bits off = false ∧ (x = .busRead bits off ∨ ∃ v, x = .busWrite bits off v)

@[simp] theorem notAdmitted_busRead_iff (bits off : Nat) :
    NotAdmitted (.busRead bits off) ↔ admitted bits off = false := by
  simp [NotAdmitted]

@[simp] theorem notAdmitted_busWrite_iff (bits off : Nat) (v : Word) :
    NotAdmitted (.busWrite bits off v) ↔ admitted bits off = false := by
  simp [NotAdmitted]

/-- All an input can do: let the machine go on, be refused as an access, or fault as a command on CMD. -/
theorem serveInput_cases (x : Input) (s : State) :
    (∃ t, serveInput x s = .next t) ∨
    (NotAdmitted x ∧ ∃ r, serveInput x s = .refused r) ∨
    (∃ i f, exec i s = .fault f ∧ serveInput x s = .fault f) := by
  cases x with
  | engineTurn => exact .inl ⟨_, rfl⟩
  | reset => exact .inl ⟨_, rfl⟩
  | busRead bits off =>
    cases ha : admitted bits off with
    | false => exact .inr (.inl ⟨(notAdmitted_busRead_iff _ _).mpr ha, _, by rw [serveInput, ha]; rfl⟩)
    | true => exact .inl ⟨_, by rw [serveInput, ha]; rfl⟩
  | busWrite bits off v =>
    cases ha : admitted bits off with
    | false => exact .inr (.inl ⟨(notAdmitted_busWrite_iff _ _ _).mpr ha, _, by rw [serveInput, ha]; rfl⟩)
    | true =>
      have hserve : serveInput (.busWrite bits off v) s = busWrite off v s := if_pos ha
      rw [hserve]
      by_cases h0 : off = 0x00
      · subst h0
        rw [busWrite_cmd]
        cases hd : decode v with
        | illegal why => exact .inl ⟨_, execCmd_illegal v why s hd⟩
        | command i =>
          rw [execCmd_command v i s hd]
          cases he : exec i s with
          | next t => exact .inl ⟨t, rfl⟩
          | fault f => exact .inr (.inr ⟨i, f, he, rfl⟩)
          | refused r => exact absurd he (exec_ne_refused i s r)
      · exact .inl ⟨s, busWrite_of_ne v s h0⟩

/-- An access that is not admitted is refused by name. -/
theorem serveInput_of_not_admitted {bits off : Nat} (ha : admitted bits off = false) (v : Word) (s : State) :
    serveInput (.busRead bits off) s = .refused (.accessNotAdmitted bits off) ∧
      serveInput (.busWrite bits off v) s = .refused (.accessNotAdmitted bits off) :=
  ⟨if_neg (Bool.eq_false_iff.mp ha), if_neg (Bool.eq_false_iff.mp ha)⟩

/-- A step is refused exactly when its input is an access that is not admitted. -/
theorem step_refused_iff (s : State) :
    (∃ r, step s = .refused r) ↔ ∃ x rest, s.inputs = x :: rest ∧ NotAdmitted x := by
  cases hi : s.inputs with
  | nil => simp [step_nil s hi]
  | cons x rest =>
    rw [step_cons s x rest hi]
    constructor
    · rintro ⟨r, hr⟩
      rcases serveInput_cases x { s with inputs := rest } with ⟨t, h⟩ | ⟨hx, -⟩ | ⟨i, f, -, h⟩
      · cases h.symm.trans hr
      · exact ⟨x, rest, rfl, hx⟩
      · cases h.symm.trans hr
    · rintro ⟨x', rest', hcons, bits, off, ha, hx⟩
      obtain ⟨rfl, rfl⟩ := List.cons.inj hcons
      rcases hx with rfl | ⟨v, rfl⟩
      · exact ⟨_, (serveInput_of_not_admitted ha 0 _).1⟩
      · exact ⟨_, (serveInput_of_not_admitted ha v _).2⟩

/-- Settles O13: what is admitted is R54's list, and a refused step's access is not on it. -/
theorem otherAccessesRefused : Obligations.OtherAccessesRefused := by
  constructor
  · intro s rest bits off v hout
    have ha : admitted bits off = false := Bool.eq_false_iff.mpr (mt (admitted_iff bits off).mp hout)
    exact ⟨fun h => (step_cons _ _ _ h).trans (serveInput_of_not_admitted ha v _).1,
      fun h => (step_cons _ _ _ h).trans (serveInput_of_not_admitted ha v _).2⟩
  · intro s rest off v r halign hlt
    have ha : admitted 32 off = true := (admitted_iff 32 off).mpr ⟨rfl, halign, hlt⟩
    have hne (x : Input) (hx : ¬ NotAdmitted x) (hi : s.inputs = x :: rest) : step s ≠ .refused r := by
      intro h
      obtain ⟨y, rest', hi', hy⟩ := (step_refused_iff s).mp ⟨r, h⟩
      obtain ⟨rfl, -⟩ := List.cons.inj (hi.symm.trans hi')
      exact hx hy
    exact ⟨hne _ (by simp [ha]), hne _ (by simp [ha])⟩

/-! ### RESET, and the engine's turn without BUSY (R250, R210) -/

/-- After RESET a register reads as it does in the reset state, whose registers all read 0. -/
theorem busReadValue_resetState (s : State) :
    busReadValue 0x04 (resetState s) = 0 ∧ busReadValue 0x08 (resetState s) = 0 ∧
      busReadValue 0x0C (resetState s) = 0 ∧ busReadValue 0x10 (resetState s) = 0 := by
  change busReadValue 0x04 State.reset = 0 ∧ busReadValue 0x08 State.reset = 0 ∧
    busReadValue 0x0C State.reset = 0 ∧ busReadValue 0x10 State.reset = 0
  decide

/-- Settles O14: the step is RESET's. -/
theorem resetSetsEveryElement : Obligations.ResetSetsEveryElement := by
  intro s rest h
  exact ⟨_, step_cons _ _ _ h, rfl, rfl, rfl, rfl, rfl, rfl, rfl, rfl, rfl, rfl, rfl, rfl, busReadValue_resetState _⟩

/-- Settles O26: the engine's turn without BUSY gives the state it is taken in. -/
theorem engineHasNoStepWithoutBusy : Obligations.EngineHasNoStepWithoutBusy := by
  intro s s0 hm hb
  obtain ⟨-, -, -, -, hbusy, -⟩ := hm.fields
  rw [step_engineMoves hm, engineTurn_idle s0 (hbusy.trans hb)]

end Sys2Proof.Machine
end

section
/-! The invariant of every reachable state (10_state.md R43): it holds at reset, and each operation keeps it. -/

namespace Sys2Proof.Machine

/-! ### MD5's register files (R43 item 7) -/

theorem md5File_of {r : Vector DWord 8} (hlow : ∀ i, i < 4 → (regAt r i).toNat < 2 ^ 32)
    (hhigh : ∀ i, 4 ≤ i → i < 8 → regAt r i = 0) : Md5File r := by
  intro i
  split
  next hi => exact hlow i hi
  next hi => exact hhigh i (Nat.le_of_not_lt hi) i.isLt

theorem Md5File.high {r : Vector DWord 8} (h : Md5File r) {i : Nat} (hi : 4 ≤ i) (h8 : i < 8) : regAt r i = 0 := by
  simpa [hi.not_gt] using h ⟨i, h8⟩

/-- A round leaves an MD5 register file one: its four results are zero-extended, and the rest is not written. -/
theorem md5File_storeMd5 {r : Vector DWord 8} (h : Md5File r) (m : Md5Regs) : Md5File (storeMd5 r m) := by
  obtain ⟨h0, h1, h2, h3⟩ := regAt_storeMd5_low r m
  refine md5File_of (fun i hi => ?_) fun i hi h8 => (regAt_storeMd5_high r m i hi h8).trans (h.high hi h8)
  interval_cases i
  · exact h0 ▸ zext64_lt m.a
  · exact h1 ▸ zext64_lt m.b
  · exact h2 ▸ zext64_lt m.c
  · exact h3 ▸ zext64_lt m.d

/-- So does the feed-forward. -/
theorem md5File_md5FeedH {h : Vector DWord 8} (hh : Md5File h) (v : Vector DWord 8) : Md5File (md5FeedH h v) :=
  md5File_of (fun _ hi => regAt_md5FeedH_low h v hi ▸ zext64_lt _)
    fun _ hi h8 => (regAt_md5FeedH_high h v hi h8).trans (hh.high hi h8)

/-- INIT of MD5 loads one. -/
theorem md5File_initH : Md5File (initH .md5) :=
  md5File_of (fun _ hi => regAt_initH_md5 hi ▸ zext64_lt _) fun _ hi h8 => regAt_initH_md5_high hi h8

theorem md5File_roundV {s : State} (ha : s.alg = .md5) (h : Md5File s.v) : Md5File (roundV s) := by
  rw [roundV, ha]
  exact md5File_storeMd5 h _

theorem md5File_feedH {s : State} (ha : s.alg = .md5) (h : Md5File s.h) : Md5File (feedH s) := by
  rw [feedH, ha]
  exact md5File_md5FeedH h _

/-! ### Counters that do not wrap -/

theorem rounds_cases (alg : Alg) : rounds alg = 64 ∨ rounds alg = 80 := by
  cases alg
  · exact .inl rfl
  · exact .inr rfl

/-- RND below R does not wrap when it counts a round. -/
theorem toNat_rnd_add_one {alg : Alg} {n : BitVec 7} (h : n.toNat < rounds alg) : (n + 1).toNat = n.toNat + 1 := by
  have := rounds_cases alg
  have h1 : (1 : BitVec 7).toNat = 1 := rfl
  rw [BitVec.toNat_add, h1, Nat.mod_eq_of_lt (by omega)]

/-- RND at R is one of the two values of R. -/
theorem rnd_eq_of_toNat_eq {alg : Alg} {n : BitVec 7} (h : n.toNat = rounds alg) : n = 64 ∨ n = 80 := by
  rcases rounds_cases alg with hr | hr
  · exact .inl (BitVec.eq_of_toNat_eq (h.trans hr))
  · exact .inr (BitVec.eq_of_toNat_eq (h.trans hr))

/-- One more byte in a block that it does not fill. -/
theorem mod_add_one_of_lt {len n bs : Nat} (h : len % bs = n) (hlt : n + 1 < bs) : (len + 1) % bs = n + 1 := by
  rw [Nat.add_mod, h, Nat.mod_eq_of_lt (show 1 < bs by omega), Nat.mod_eq_of_lt hlt]

/-- The byte that fills a block. -/
theorem mod_add_one_of_eq {len n bs : Nat} (h : len % bs = n) (heq : n + 1 = bs) : (len + 1) % bs = 0 := by
  rw [← Nat.mod_add_mod, h, heq, Nat.mod_self]

theorem blockSize_pos (alg : Alg) : 0 < blockSize alg := by
  cases alg <;> decide

/-! ### The operations -/

theorem inv_reset : State.reset.Inv :=
  ⟨⟨nofun, nofun⟩, nofun, ⟨nofun, fun _ => rfl, nofun⟩, ⟨nofun, fun _ => rfl⟩, ⟨nofun, fun _ => .inl rfl⟩,
    fun _ => ⟨fun h => absurd rfl h, nofun⟩, iff_of_true rfl rfl⟩

/-- Settles O53, item by item on the reset state. -/
theorem invariantAtReset : Obligations.InvariantAtReset := inv_reset

theorem inv_engineTurn {s : State} (h : s.Inv) : (engineTurn s).Inv := by
  obtain ⟨⟨hbusy, hfinal⟩, habs, ⟨hnf, hnn, hn2⟩, ⟨hof, hod⟩, ⟨hrb, hri⟩, hw, herr⟩ := id h
  rcases engineTurn_cases s with ⟨-, e⟩ | ⟨hb, hr, e⟩ | ⟨hb, hr, hp, hn, e⟩ | ⟨hb, hr, hp, hn, e⟩ | ⟨hb, hr, hp, e⟩ <;>
    rw [e]
  · exact h
  · refine ⟨⟨hbusy, hfinal⟩, habs, ⟨hnf, hnn, hn2⟩, ⟨hof, hod⟩, ⟨fun _ => ?_, fun hb' => nomatch hb.symm.trans hb'⟩, ?_,
      herr⟩
    · exact (toNat_rnd_add_one hr).trans_le hr
    · exact fun ha => ⟨(hw ha).1, fun _ => md5File_roundV ha ((hw ha).2 hb)⟩
  · have hidle : s.phase ≠ .idle := hp ▸ nofun
    have hmd5 (ha : s.alg = .md5) : Md5File (feedH s) := md5File_feedH ha ((hw ha).1 hidle)
    have habsorb : s.phase ≠ .absorb := hp ▸ nofun
    exact ⟨⟨fun _ => .inr hp, fun _ => rfl⟩, fun hp' => absurd hp' habsorb,
      ⟨fun _ => .inl rfl, fun hp' => absurd hp hp', nofun⟩, ⟨hof, hod⟩, ⟨fun _ => Nat.zero_le _, nofun⟩,
      fun ha => ⟨fun _ => hmd5 ha, fun _ => hmd5 ha⟩, herr⟩
  · have hidle : s.phase ≠ .idle := hp ▸ nofun
    exact ⟨⟨nofun, nofun⟩, nofun, ⟨nofun, fun _ => rfl, nofun⟩, ⟨nofun, fun _ => rfl⟩,
      ⟨nofun, fun _ => .inr (rnd_eq_of_toNat_eq (Nat.le_antisymm (hrb hb) hr))⟩,
      fun ha => ⟨fun _ => md5File_feedH ha ((hw ha).1 hidle), nofun⟩, herr⟩
  · have hpa : s.phase = .absorb := (hbusy hb).resolve_right hp
    obtain ⟨-, hlen, hn0⟩ := (habs hpa).2 hb
    have hidle : s.phase ≠ .idle := hpa ▸ nofun
    exact ⟨⟨nofun, fun hp' => absurd hp' hp⟩, fun _ => ⟨fun _ => ⟨blockSize_pos _, hlen⟩, nofun⟩,
      ⟨hnf, hnn, fun hn => nomatch hn0.symm.trans hn⟩, ⟨fun hp' => absurd hp' hp, fun _ => rfl⟩,
      ⟨nofun, fun _ => .inr (rnd_eq_of_toNat_eq (Nat.le_antisymm (hrb hb) hr))⟩,
      fun ha => ⟨fun _ => md5File_feedH ha ((hw ha).1 hidle), nofun⟩, herr⟩

/-- Recording an error touches the error record only, and leaves it consistent. -/
theorem inv_raiseError {code : ErrCode} (hcode : code ≠ .eNone) {s : State} (h : s.Inv) : (raiseError code s).Inv := by
  unfold raiseError
  split
  · exact h
  · obtain ⟨h1, h2, h3, h4, h5, h6, -⟩ := h
    exact ⟨h1, h2, h3, h4, h5, h6, nofun, fun hc => absurd hc hcode⟩

theorem inv_clearError {s : State} (h : s.Inv) : (clearError s).Inv := by
  obtain ⟨h1, h2, h3, h4, h5, h6, -⟩ := h
  exact ⟨h1, h2, h3, h4, h5, h6, iff_of_true rfl rfl⟩

theorem inv_beginDigest (alg : Alg) {s : State} (h : s.Inv) (hb : s.busy = false) : (beginDigest alg s).Inv := by
  have hnb (h : s.busy = true) : False := nomatch hb.symm.trans h
  obtain ⟨-, -, -, -, ⟨-, hri⟩, -, herr⟩ := h
  refine ⟨⟨fun _ => .inl rfl, nofun⟩, fun _ => ⟨fun _ => ⟨blockSize_pos _, Nat.zero_mod _⟩, fun h => (hnb h).elim⟩,
    ⟨nofun, fun _ => rfl, nofun⟩, ⟨nofun, fun _ => rfl⟩, ⟨fun h => (hnb h).elim, hri⟩, ?_, herr⟩
  rintro rfl
  exact ⟨fun _ => md5File_initH, fun h => (hnb h).elim⟩

/-- A byte that does not fill the block moves BUFCNT and LEN on together; one that does starts the block. -/
theorem inv_absorbByte (b : Byte) {s : State} (h : s.Inv) (hb : s.busy = false) (hp : s.phase = .absorb)
    (hl : s.len ≠ maxLen) : (absorbByte b s).Inv := by
  obtain ⟨-, habs, ⟨-, hnn, -⟩, -, ⟨-, hri⟩, hw, herr⟩ := h
  obtain ⟨hlt, hmod⟩ := (habs hp).1 hb
  have hn0 : s.nblk = 0 := hnn (hp ▸ nofun)
  have hcnt : (s.bufcnt + 1).toNat = s.bufcnt.toNat + 1 := toNat_bufcnt_add_one (hlt.trans_le (blockSize_le_128 _))
  have hlen : (s.len + 1).toNat = s.len.toNat + 1 := toNat_len_add_one hl
  have hmd5 (ha : s.alg = .md5) : Md5File s.h := (hw ha).1 (hp ▸ nofun)
  have hnblk : ¬ s.nblk = 2 := hn0 ▸ nofun
  have hfinal : s.phase ≠ .final := hp ▸ nofun
  have hrest : ¬ (s.phase = .idle ∨ s.phase = .done) := hp ▸ nofun
  rcases absorbByte_cases b s with ⟨hfull, e⟩ | ⟨hfull, e⟩ <;> rw [e] <;> rw [hcnt] at hfull
  · exact ⟨⟨fun _ => .inl hp, fun _ => rfl⟩, fun _ => ⟨nofun, fun _ =>
        ⟨hcnt.trans hfull, (congrArg (· % _) hlen).trans (mod_add_one_of_eq hmod hfull), hn0⟩⟩,
      ⟨fun h => absurd h hfinal, fun _ => hn0, fun h => absurd h hnblk⟩,
      ⟨fun h => absurd h hfinal, fun h => absurd h hrest⟩,
      ⟨fun _ => Nat.zero_le _, nofun⟩, fun ha => ⟨fun _ => hmd5 ha, fun _ => hmd5 ha⟩, herr⟩
  · have hlt' : s.bufcnt.toNat + 1 < blockSize s.alg := by omega
    have hnb (h : s.busy = true) : False := nomatch hb.symm.trans h
    exact ⟨⟨fun _ => .inl hp, fun h => absurd h hfinal⟩, fun _ => ⟨fun _ =>
        ⟨hcnt.trans_lt hlt', (congrArg (· % _) hlen).trans ((mod_add_one_of_lt hmod hlt').trans hcnt.symm)⟩,
        fun h => (hnb h).elim⟩,
      ⟨fun h => absurd h hfinal, fun _ => hn0, fun h => absurd h hnblk⟩,
      ⟨fun h => absurd h hfinal, fun h => absurd h hrest⟩,
      ⟨fun h => (hnb h).elim, fun _ => hri hb⟩, fun ha => ⟨fun _ => hmd5 ha, fun h => (hnb h).elim⟩, herr⟩

theorem inv_padAndStart {s : State} (h : s.Inv) (hb : s.busy = false) (hp : s.phase = .absorb) :
    (padAndStart s).Inv := by
  obtain ⟨-, habs, -, -, -, hw, herr⟩ := h
  have hmd5 (ha : s.alg = .md5) : Md5File s.h := (hw ha).1 (hp ▸ nofun)
  refine ⟨⟨fun _ => .inr rfl, fun _ => rfl⟩, nofun, ⟨fun _ => ?_, fun h => absurd rfl h, fun hn => ?_⟩,
    ⟨fun _ => (habs hp).1 hb, nofun⟩, ⟨fun _ => Nat.zero_le _, nofun⟩, fun ha => ⟨fun _ => hmd5 ha, fun _ => hmd5 ha⟩,
    herr⟩
  · rw [padAndStart_nblk]
    split
    · exact .inl rfl
    · exact .inr rfl
  · by_contra hfits
    rw [padAndStart_nblk, if_pos (by simpa using hfits)] at hn
    cases hn

/-! ### Commands and steps -/

/-- An accepted command but NOP finds the engine idle, in a phase where it is legal. -/
theorem accepted_of_rejection_none {i : Instr} {s : State} (h : rejection i s = none) (hi : i ≠ .nop) :
    s.busy = false ∧ legalPhase i s.phase = true ∧ ∀ b, i = .absorb b → s.len ≠ maxLen := by
  obtain ⟨hb, hp, -, hl⟩ := (rejection_none_iff i s).mp h
  exact ⟨hb.resolve_right hi, hp, hl⟩

theorem rejection_ne_eNone {i : Instr} {s : State} {code : ErrCode} (h : rejection i s = some code) :
    code ≠ .eNone := by
  rcases rejection_code h with rfl | rfl | rfl | rfl <;> nofun

theorem inv_exec {i : Instr} {s t : State} (h : s.Inv) (he : exec i s = .next t) : t.Inv := by
  rcases exec_next_cases he with ⟨code, hr, rfl⟩ | ⟨hr, heff⟩
  · exact inv_raiseError (rejection_ne_eNone hr) h
  rcases heff with ⟨rfl, rfl⟩ | ⟨alg, rfl, rfl⟩ | ⟨b, rfl, -, rfl⟩ | ⟨rfl, -, rfl⟩ | ⟨value, -, rfl⟩ | ⟨rfl, rfl⟩
  · exact h
  · exact inv_beginDigest alg h (accepted_of_rejection_none hr nofun).1
  · obtain ⟨hb, hp, hl⟩ := accepted_of_rejection_none hr nofun
    exact inv_absorbByte b h hb (beq_iff_eq.mp hp) (hl b rfl)
  · obtain ⟨hb, hp, -⟩ := accepted_of_rejection_none hr nofun
    exact inv_padAndStart h hb (beq_iff_eq.mp hp)
  · exact h
  · exact inv_clearError h

/-- The invariant does not look at the schedule. -/
theorem inv_inputs {s : State} (h : s.Inv) (rest : List Input) : ({ s with inputs := rest } : State).Inv := h

/-- Settles O54, from the operation each step is. -/
theorem invariantKeptByEveryStep : Obligations.InvariantKeptByEveryStep := by
  intro s t h hstep
  rcases step_cases hstep with ⟨s0, hm, rfl⟩ | ⟨off, rest, -, -, rfl⟩ | ⟨rest, -, rfl⟩ | ⟨off, v, rest, -, -, -, rfl⟩ |
    ⟨w, why, rest, -, -, rfl⟩ | ⟨w, i, rest, -, -, -, he⟩
  · exact inv_engineTurn (hm.eq ▸ inv_inputs h _)
  · exact h
  · exact inv_reset
  · exact h
  · exact inv_raiseError (by decide) (inv_inputs h rest)
  · exact inv_exec (inv_inputs h rest) he

/-! ### No fault (R228) -/

/-- Under the invariant a command finds the byte of BUF it writes. -/
theorem exec_ne_fault {s : State} (h : s.Inv) (i : Instr) (f : Fault) : exec i s ≠ .fault f := by
  intro he
  obtain ⟨hr, hn, hi⟩ := exec_fault he
  have hne : i ≠ .nop := by
    rintro rfl
    rcases hi with ⟨b, hb⟩ | hf
    · cases hb
    · cases hf
  obtain ⟨hb, hlegal, -⟩ := accepted_of_rejection_none hr hne
  have hp : s.phase = .absorb := by
    rcases hi with ⟨b, rfl⟩ | rfl <;> exact beq_iff_eq.mp hlegal
  obtain ⟨-, habs, -⟩ := h
  exact absurd (((habs hp).1 hb).1.trans_le (blockSize_le_128 s.alg)) hn.not_gt

theorem step_ne_fault {s : State} (h : s.Inv) (f : Fault) : step s ≠ .fault f := by
  intro hf
  cases hi : s.inputs with
  | nil => cases (step_nil s hi).symm.trans hf
  | cons x rest =>
    rw [step_cons s x rest hi] at hf
    rcases serveInput_cases x { s with inputs := rest } with ⟨t, e⟩ | ⟨-, r, e⟩ | ⟨i, f', he, -⟩
    · cases e.symm.trans hf
    · cases e.symm.trans hf
    · exact exec_ne_fault (inv_inputs h rest) i f' he

/-- Settles O58: a step faults only as a command does, and is refused only for its access. -/
theorem noFaultFromReachableStates : Obligations.NoFaultFromReachableStates := by
  refine fun s h => ⟨fun f => step_ne_fault h f, (step_refused_iff s).trans ?_⟩
  constructor
  · rintro ⟨x, rest, hi, bits, off, ha, rfl | ⟨v, rfl⟩⟩
    · exact ⟨bits, off, rest, ha, .inl hi⟩
    · exact ⟨bits, off, rest, ha, .inr ⟨v, hi⟩⟩
  · rintro ⟨bits, off, rest, ha, hi | ⟨v, hi⟩⟩
    · exact ⟨_, rest, hi, (notAdmitted_busRead_iff _ _).mpr ha⟩
    · exact ⟨_, rest, hi, (notAdmitted_busWrite_iff _ _ _).mpr ha⟩

end Sys2Proof.Machine
end

section
/-! What the spec leaves unspecified is never read (10_state.md R45): states that differ only there step alike. -/

namespace Sys2Proof.Machine

/-! ### The engine's turn, by the round it is at (R210, R211) -/

theorem engineTurn_of_lt {s : State} (hb : s.busy = true) (hr : s.rnd.toNat < rounds s.alg) :
    engineTurn s = { s with v := roundV s, rnd := s.rnd + 1 } := by
  rcases engineTurn_cases s with ⟨hb', -⟩ | ⟨-, -, e⟩ | ⟨-, hr', -⟩ | ⟨-, hr', -⟩ | ⟨-, hr', -⟩
  · cases hb.symm.trans hb'
  · exact e
  all_goals exact absurd hr' hr.not_ge

theorem engineTurn_of_ge {s : State} (hb : s.busy = true) (hr : rounds s.alg ≤ s.rnd.toNat) :
    engineTurn s = completeBlock { s with h := feedH s } := by
  rw [engineTurn_busy s hb]
  rcases engineStep_cases s with ⟨ha, hlt, -⟩ | ⟨ha, hlt, -⟩ | ⟨ha, -, e⟩ | ⟨ha, -, e⟩
  · exact absurd hlt (by simpa [ha, rounds] using hr)
  · exact absurd hlt (by simpa [ha, rounds] using hr)
  · simp only [e, md5Feed, feedH, ha]
  · simp only [e, sha512Feed, feedH, ha]

/-! ### Live bytes (R45) -/

theorem liveBytes_of_busy {s : State} (hb : s.busy = true) : liveBytes s = blockSize s.alg := by
  simp [liveBytes, hb]

theorem liveBytes_of_absorb {s : State} (hb : s.busy = false) (hp : s.phase = .absorb) :
    liveBytes s = s.bufcnt.toNat := by
  simp [liveBytes, hb, hp]

/-! ### States that differ only where nothing reads -/

/-- The other state, written as the first with the parts that may differ. -/
theorem SameLive.eq {s t : State} (h : SameLive s t) : t = { s with h := t.h, v := t.v, rnd := t.rnd, buf := t.buf } := by
  obtain ⟨halg, hphase, hbusy, hnblk, hcnt, hlen, herr, hcode, hresult, hinputs, hreads, -⟩ := h
  rw [halg, hphase, hbusy, hnblk, hcnt, hlen, herr, hcode, hresult, hinputs, hreads]

/-- What agrees in the parts that may differ, as far as it is live. -/
theorem SameLive.live {s t : State} (h : SameLive s t) :
    (s.phase ≠ .idle → s.h = t.h) ∧ (s.busy = true → s.v = t.v ∧ s.rnd = t.rnd) ∧
      ∀ k, k < liveBytes s → bufByte s.buf k = bufByte t.buf k := by
  obtain ⟨-, -, -, -, -, -, -, -, -, -, -, hlive⟩ := h
  exact hlive

theorem SameLive.of_eq {s t : State} {h v : Vector DWord 8} {rnd : BitVec 7} {buf : Vector Byte 128}
    (ht : t = { s with h := h, v := v, rnd := rnd, buf := buf }) (hh : s.phase ≠ .idle → s.h = h)
    (hv : s.busy = true → s.v = v ∧ s.rnd = rnd) (hbuf : ∀ k, k < liveBytes s → bufByte s.buf k = bufByte buf k) :
    SameLive s t := by
  subst ht
  exact ⟨rfl, rfl, rfl, rfl, rfl, rfl, rfl, rfl, rfl, rfl, rfl, hh, hv, hbuf⟩

theorem SameLive.refl (s : State) : SameLive s s :=
  .of_eq rfl (fun _ => rfl) (fun _ => ⟨rfl, rfl⟩) fun _ _ => rfl

/-- While not busy, agreeing live bytes and, outside IDLE, agreeing chaining registers are enough. -/
theorem SameLive.of_not_busy {s t : State} (hb : s.busy = false)
    (ht : t = { s with h := t.h, v := t.v, rnd := t.rnd, buf := t.buf }) (hh : s.phase ≠ .idle → s.h = t.h)
    (hbuf : ∀ k, k < liveBytes s → bufByte s.buf k = bufByte t.buf k) : SameLive s t :=
  .of_eq ht hh (fun h => nomatch hb.symm.trans h) hbuf

/-- While busy, only bytes of BUF past the block can differ. -/
theorem SameLive.of_busy {s t : State} {buf : Vector Byte 128} (hb : s.busy = true) (ht : t = { s with buf := buf })
    (hbuf : ∀ k, k < blockSize s.alg → bufByte s.buf k = bufByte buf k) : SameLive s t :=
  .of_eq ht (fun _ => rfl) (fun _ => ⟨rfl, rfl⟩) (liveBytes_of_busy hb ▸ hbuf)

/-- Under the invariant a busy state has nothing unspecified but bytes of BUF past the block. -/
theorem SameLive.busy {s t : State} (hs : s.Inv) (h : SameLive s t) (hb : s.busy = true) :
    t = { s with buf := t.buf } ∧ ∀ k, k < blockSize s.alg → bufByte s.buf k = bufByte t.buf k := by
  obtain ⟨⟨hphase, -⟩, -⟩ := hs
  have hidle : s.phase ≠ .idle := by
    rcases hphase hb with hp | hp <;> rw [hp] <;> nofun
  obtain ⟨hh, hv, hbuf⟩ := h.live
  obtain ⟨hv, hrnd⟩ := hv hb
  refine ⟨h.eq.trans ?_, liveBytes_of_busy hb ▸ hbuf⟩
  rw [← hh hidle, ← hv, ← hrnd]

/-! ### The engine's turn -/

/-- A round reads the block only. -/
theorem roundV_congr {s : State} {buf : Vector Byte 128}
    (hbuf : ∀ k, k < blockSize s.alg → bufByte s.buf k = bufByte buf k) : roundV { s with buf := buf } = roundV s := by
  have hblock : blockOf s.alg s.buf = blockOf s.alg buf := blockOf_congr s.alg s.buf buf hbuf
  unfold roundV
  cases ha : s.alg with
  | md5 => rw [ha] at hblock; simp only [md5RoundStep_v, hblock]
  | sha512 => rw [ha] at hblock; simp only [sha512RoundStep_v, hblock]

/-- The second padding block is built without reading BUF below the block's end. -/
theorem padSecondBuf_congr (alg : Alg) (len : DWord) (a b : Vector Byte 128) {k : Nat} (hk : k < blockSize alg) :
    bufByte (padSecondBuf alg len a) k = bufByte (padSecondBuf alg len b) k := by
  have hk' : k < 128 := hk.trans_le (blockSize_le_128 alg)
  rw [bufByte_padSecondBuf _ _ _ _ hk', bufByte_padSecondBuf _ _ _ _ hk', if_pos hk, if_pos hk]

theorem sameLive_completeBlock (s : State) (buf : Vector Byte 128) :
    SameLive (completeBlock s) (completeBlock { s with buf := buf }) := by
  by_cases hp : s.phase = .final
  · by_cases hn : s.nblk = 2
    · have hpad (t : State) (hp : t.phase = .final) (hn : t.nblk = 2) : completeBlock t = padSecond t := if_pos ⟨hp, hn⟩
      rw [hpad s hp hn, hpad { s with buf := buf } hp hn]
      exact .of_busy rfl rfl fun k hk => padSecondBuf_congr s.alg s.len s.buf buf hk
    · have hdone (t : State) (hp : t.phase = .final) (hn : t.nblk ≠ 2) :
          completeBlock t = { t with busy := false, bufcnt := 0, phase := .done, nblk := 0 } := by
        rw [completeBlock, if_neg fun h => hn h.2, if_pos hp]
      rw [hdone s hp hn, hdone { s with buf := buf } hp hn]
      exact .of_not_busy rfl rfl (fun _ => rfl) (by simp [liveBytes])
  · have hidle (t : State) (hp : t.phase ≠ .final) : completeBlock t = { t with busy := false, bufcnt := 0 } := by
      rw [completeBlock, if_neg fun h => hp h.1, if_neg hp]
    rw [hidle s hp, hidle { s with buf := buf } hp]
    exact .of_not_busy rfl rfl (fun _ => rfl) (by simp [liveBytes])

theorem sameLive_engineTurn {s t : State} (hs : s.Inv) (h : SameLive s t) :
    SameLive (engineTurn s) (engineTurn t) := by
  cases hb : s.busy with
  | false =>
    have hbt : t.busy = false := h.eq ▸ hb
    rwa [engineTurn_idle s hb, engineTurn_idle t hbt]
  | true =>
    obtain ⟨ht, hbuf⟩ := h.busy hs hb
    rw [ht]
    by_cases hr : s.rnd.toNat < rounds s.alg
    · rw [engineTurn_of_lt hb hr, engineTurn_of_lt (s := { s with buf := t.buf }) hb hr, roundV_congr hbuf]
      exact .of_busy hb rfl hbuf
    · have hr := Nat.le_of_not_lt hr
      rw [engineTurn_of_ge hb hr, engineTurn_of_ge (s := { s with buf := t.buf }) hb hr]
      exact sameLive_completeBlock { s with h := feedH s } t.buf

/-! ### The commands -/

/-- Two outcomes are alike: the same stop, or states that differ only where nothing reads. -/
def AlikeResults (a b : Result) : Prop :=
  (∀ s', a = .next s' → ∃ t', b = .next t' ∧ SameLive s' t') ∧ (∀ f, a = .fault f → b = .fault f) ∧
    ∀ r, a = .refused r → b = .refused r

theorem alikeResults_next {s t : State} (h : SameLive s t) : AlikeResults (.next s) (.next t) := by
  refine ⟨fun s' hs' => ?_, nofun, nofun⟩
  cases hs'
  exact ⟨t, rfl, h⟩

theorem alikeResults_fault (f : Fault) : AlikeResults (.fault f) (.fault f) := ⟨nofun, fun _ => id, nofun⟩

theorem alikeResults_refused (r : Refusal) : AlikeResults (.refused r) (.refused r) := ⟨nofun, nofun, fun _ => id⟩

/-- The checks read nothing unspecified. -/
theorem SameLive.rejection_eq {s t : State} (h : SameLive s t) (i : Instr) : rejection i t = rejection i s := by
  rw [h.eq]
  rfl

theorem sameLive_raiseError (code : ErrCode) {s t : State} (h : SameLive s t) :
    SameLive (raiseError code s) (raiseError code t) := by
  obtain ⟨hh, hv, hbuf⟩ := h.live
  rw [h.eq]
  unfold raiseError
  dsimp only
  split
  · exact .of_eq rfl hh hv hbuf
  · exact .of_eq rfl hh hv hbuf

theorem sameLive_absorbByte (b : Byte) {s t : State} (h : SameLive s t) (hb : s.busy = false) (hp : s.phase = .absorb)
    (hn : s.bufcnt.toNat < 128) : SameLive (absorbByte b s) (absorbByte b t) := by
  obtain ⟨hh, -, hbuf⟩ := h.live
  have hh : s.h = t.h := hh (hp ▸ nofun)
  have hput : ∀ k, k < s.bufcnt.toNat + 1 →
      bufByte (putByte s.bufcnt.toNat b s.buf) k = bufByte (putByte s.bufcnt.toNat b t.buf) k := by
    intro k hk
    rw [bufByte_putByte _ _ _ _ (by omega), bufByte_putByte _ _ _ _ (by omega)]
    split
    · rfl
    · exact hbuf k (by rw [liveBytes_of_absorb hb hp]; omega)
  rw [← toNat_bufcnt_add_one hn] at hput
  rw [h.eq, ← hh]
  unfold absorbByte
  dsimp only
  split
  next hfull => exact .of_busy rfl rfl (hfull ▸ hput)
  next => exact .of_not_busy hb rfl (fun _ => rfl) (by rwa [liveBytes_of_absorb (s := takeByte b s) hb hp])

theorem sameLive_padAndStart {s t : State} (h : SameLive s t) (hb : s.busy = false) (hp : s.phase = .absorb) :
    SameLive (padAndStart s) (padAndStart t) := by
  obtain ⟨hh, -, hbuf⟩ := h.live
  have hh : s.h = t.h := hh (hp ▸ nofun)
  rw [liveBytes_of_absorb hb hp] at hbuf
  rw [h.eq, ← hh]
  refine .of_busy rfl rfl fun k hk => ?_
  have hk' : k < 128 := hk.trans_le (blockSize_le_128 s.alg)
  rw [padAndStart_buf, bufByte_padFirst_eq _ _ _ _ hk', bufByte_padFirst_eq _ _ _ _ hk']
  by_cases hlt : k < s.bufcnt.toNat
  · simp only [hbuf k hlt]
  · have hpad : ¬ (k < s.bufcnt.toNat ∨ blockSize s.alg ≤ k) := not_or.mpr ⟨hlt, hk.not_ge⟩
    rw [if_neg hpad, if_neg hpad]

/-- A read-out's value is of the chaining registers in a phase where they are specified. -/
theorem sameLive_setResult {s t : State} (h : SameLive s t) (value : Vector DWord 8 → Word) (hp : s.phase ≠ .idle) :
    SameLive (setResult (value s.h) s) (setResult (value t.h) t) := by
  obtain ⟨hh, hv, hbuf⟩ := h.live
  rw [h.eq, ← hh hp]
  exact .of_eq rfl (fun _ => rfl) hv hbuf

/-- A phase in which a read-out or RDCHAIN is legal is not IDLE. -/
theorem ne_idle_of_legalPhase {i : Instr} {p : Phase} (h : legalPhase i p = true)
    (hi : legalPhase i .idle = false) : p ≠ .idle := by
  rintro rfl
  cases hi.symm.trans h

/-- An accepted command's effect on states that differ only where nothing reads. -/
theorem alikeResults_effectOf {i : Instr} {s t : State} (h : SameLive s t) (hr : rejection i s = none) :
    AlikeResults (effectOf i s) (effectOf i t) := by
  obtain ⟨hbusy, hlegal, -⟩ := (rejection_none_iff i s).mp hr
  obtain ⟨hh, hv, hbuf⟩ := h.live
  have halg : t.alg = s.alg := by rw [h.eq]
  have hcnt : t.bufcnt = s.bufcnt := by rw [h.eq]
  cases i with
  | nop => exact alikeResults_next h
  | init alg =>
    have hb := hbusy.resolve_right nofun
    refine alikeResults_next (.of_not_busy hb ?_ (fun _ => rfl) (by simp [liveBytes, hb]))
    rw [h.eq]
    rfl
  | absorb b =>
    have hb := hbusy.resolve_right nofun
    simp only [effectOf, hcnt]
    split
    next hn => exact alikeResults_next (sameLive_absorbByte b h hb (beq_iff_eq.mp hlegal) hn)
    next => exact alikeResults_fault _
  | final =>
    have hb := hbusy.resolve_right nofun
    simp only [effectOf, hcnt]
    split
    next => exact alikeResults_next (sameLive_padAndStart h hb (beq_iff_eq.mp hlegal))
    next => exact alikeResults_fault _
  | rdbyte idx =>
    simp only [effectOf, digestOf, halg]
    exact alikeResults_next (sameLive_setResult h (fun h => zext32 (byteAt (digestBytes s.alg h) idx))
      (ne_idle_of_legalPhase hlegal rfl))
  | rdhex idx =>
    simp only [effectOf, digestOf, halg]
    exact alikeResults_next (sameLive_setResult h (fun h => zext32 (hexChar (digestBytes s.alg h) idx))
      (ne_idle_of_legalPhase hlegal rfl))
  | rdb64 idx =>
    simp only [effectOf, digestOf, halg]
    exact alikeResults_next (sameLive_setResult h (fun h => zext32 (b64Char (digestBytes s.alg h) idx))
      (ne_idle_of_legalPhase hlegal rfl))
  | rdchain j half =>
    exact alikeResults_next (sameLive_setResult h (fun h => chainHalf half (regAt h j))
      (ne_idle_of_legalPhase hlegal rfl))
  | clrerr =>
    refine alikeResults_next (.of_eq ?_ hh hv hbuf)
    rw [h.eq]
    rfl

theorem alikeResults_exec (i : Instr) {s t : State} (h : SameLive s t) : AlikeResults (exec i s) (exec i t) := by
  rw [exec_eq_guarded, exec_eq_guarded]
  rcases guarded_cases i s (effectOf i s) with ⟨hr, e⟩ | ⟨code, hr, e⟩ <;> rw [e]
  · rw [guarded_of_none i t _ ((h.rejection_eq i).trans hr)]
    exact alikeResults_effectOf h hr
  · rw [guarded_of_some i t _ code ((h.rejection_eq i).trans hr)]
    exact alikeResults_next (sameLive_raiseError code h)

/-! ### A step -/

/-- What is left to come does not change which parts may differ. -/
theorem SameLive.withInputs {s t : State} (h : SameLive s t) (rest : List Input) :
    SameLive { s with inputs := rest } { t with inputs := rest } := by
  obtain ⟨hh, hv, hbuf⟩ := h.live
  refine .of_eq ?_ hh hv hbuf
  rw [h.eq]

/-- A register of the window shows nothing unspecified. -/
theorem SameLive.busReadValue_eq {s t : State} (h : SameLive s t) (off : Nat) : busReadValue off t = busReadValue off s := by
  rw [h.eq]
  rfl

theorem sameLive_busRead {s t : State} (h : SameLive s t) (off : Nat) : SameLive (busRead off s) (busRead off t) := by
  obtain ⟨hh, hv, hbuf⟩ := h.live
  refine .of_eq ?_ hh hv hbuf
  rw [busRead, busRead, h.busReadValue_eq, h.eq]

/-- RESET forgets every part that may differ. -/
theorem SameLive.resetState_eq {s t : State} (h : SameLive s t) : resetState t = resetState s := by
  rw [h.eq]
  rfl

theorem alikeResults_serveInput (x : Input) {s t : State} (hs : s.Inv) (h : SameLive s t) :
    AlikeResults (serveInput x s) (serveInput x t) := by
  cases x with
  | engineTurn => exact alikeResults_next (sameLive_engineTurn hs h)
  | reset => exact alikeResults_next (h.resetState_eq ▸ .refl _)
  | busRead bits off =>
    simp only [serveInput]
    split
    · exact alikeResults_next (sameLive_busRead h off)
    · exact alikeResults_refused _
  | busWrite bits off v =>
    simp only [serveInput]
    split
    · simp only [busWrite, execCmd]
      split
      · split
        · exact alikeResults_next (sameLive_raiseError .eIllegal h)
        · exact alikeResults_exec _ h
      · exact alikeResults_next h
    · exact alikeResults_refused _

/-- Settles O55: the two states serve the same input, or both take the engine's turn. -/
theorem unspecifiedStateNeverRead : Obligations.UnspecifiedStateNeverRead := by
  intro s t hs h
  have hinputs : t.inputs = s.inputs := by rw [h.eq]
  change AlikeResults (step s) (step t)
  cases hi : s.inputs with
  | nil =>
    rw [step_nil s hi, step_nil t (hinputs.trans hi)]
    exact alikeResults_next (sameLive_engineTurn hs h)
  | cons x rest =>
    rw [step_cons s x rest hi, step_cons t x rest (hinputs.trans hi)]
    exact alikeResults_serveInput x (inv_inputs hs rest) (h.withInputs rest)

end Sys2Proof.Machine
end

section
/-! Who writes what: the frame of each command, and for each piece of state the steps that change it (10_state.md). -/

namespace Sys2Proof.Machine

/-! ### Frames of the commands (R201, R202, R135, R136, R185 to R188, R222) -/

/-- Recording an error writes the error record only. -/
theorem raiseError_frame (code : ErrCode) (s : State) :
    raiseError code s = { s with err := (raiseError code s).err, errcode := (raiseError code s).errcode } := by
  unfold raiseError
  split <;> rfl

/-- A command that goes on is rejected, or has its effect. -/
theorem exec_next {i : Instr} {s t : State} (h : exec i s = .next t) :
    (∃ code, t = raiseError code s) ∨ effectOf i s = .next t := by
  rcases exec_cases i s with ⟨-, he⟩ | ⟨code, -, he⟩ <;> rw [he] at h
  · exact .inr h
  · exact .inl ⟨code, (Host.Outcome.next.inj h).symm⟩

theorem effectOf_absorb_next {b : Byte} {s t : State} (h : effectOf (.absorb b) s = .next t) :
    s.bufcnt.toNat < 128 ∧ t = absorbByte b s := by
  rw [effectOf] at h
  split at h
  next hn => exact ⟨hn, (Host.Outcome.next.inj h).symm⟩
  next => cases h

theorem effectOf_final_next {s t : State} (h : effectOf .final s = .next t) :
    s.bufcnt.toNat < 128 ∧ t = padAndStart s := by
  rw [effectOf] at h
  split at h
  next hn => exact ⟨hn, (Host.Outcome.next.inj h).symm⟩
  next => cases h

/-- The effect of a read-out is a write to RESULT. -/
theorem effectOf_readOut {i : Instr} (s : State)
    (hi : (∃ idx, i = .rdbyte idx ∨ i = .rdhex idx ∨ i = .rdb64 idx) ∨ (∃ j half, i = .rdchain j half)) :
    ∃ value, effectOf i s = .next (setResult value s) := by
  rcases hi with ⟨idx, rfl | rfl | rfl⟩ | ⟨j, half, rfl⟩ <;> exact ⟨_, rfl⟩

theorem frame_clrerr {s t : State} (h : exec .clrerr s = .next t) :
    t = { s with err := t.err, errcode := t.errcode } := by
  rcases exec_next h with ⟨code, rfl⟩ | he
  · exact raiseError_frame code s
  · cases he
    rfl

theorem frame_readOut {i : Instr} {s t : State}
    (hi : (∃ idx, i = .rdbyte idx ∨ i = .rdhex idx ∨ i = .rdb64 idx) ∨ (∃ j half, i = .rdchain j half))
    (h : exec i s = .next t) : t = { s with result := t.result, err := t.err, errcode := t.errcode } := by
  rcases exec_next h with ⟨code, rfl⟩ | he
  · rw [raiseError_result]
    exact raiseError_frame code s
  · obtain ⟨value, hv⟩ := effectOf_readOut s hi
    cases hv.symm.trans he
    rfl

theorem frame_init {alg : Alg} {s t : State} (h : exec (.init alg) s = .next t) :
    t = { s with alg := t.alg, h := t.h, len := t.len, bufcnt := t.bufcnt, nblk := t.nblk, result := t.result,
                 phase := t.phase, err := t.err, errcode := t.errcode } := by
  rcases exec_next h with ⟨code, rfl⟩ | he
  · simpa using raiseError_frame code s
  · cases he
    rfl

theorem frame_absorb {b : Byte} {s t : State} (h : exec (.absorb b) s = .next t) :
    t = { s with buf := t.buf, bufcnt := t.bufcnt, len := t.len, v := t.v, rnd := t.rnd, busy := t.busy,
                 err := t.err, errcode := t.errcode } ∧
      ∀ k, k ≠ s.bufcnt.toNat → bufByte t.buf k = bufByte s.buf k := by
  rcases exec_next h with ⟨code, rfl⟩ | he
  · exact ⟨by simpa using raiseError_frame code s, by simp⟩
  · obtain ⟨-, rfl⟩ := effectOf_absorb_next he
    obtain ⟨herr, hcode⟩ := absorbByte_record b s
    refine ⟨by simpa [herr, hcode] using absorbByte_frame b s, fun k hk => ?_⟩
    rw [absorbByte_buf, putByte, bufByte_updateBuf_same _ _ _ (if_neg hk)]

theorem frame_final {s t : State} (h : exec .final s = .next t) :
    t = { s with buf := t.buf, phase := t.phase, nblk := t.nblk, v := t.v, rnd := t.rnd, busy := t.busy,
                 err := t.err, errcode := t.errcode } ∧
      ∀ k, k < s.bufcnt.toNat ∨ (blockSize s.alg ≤ k ∧ k ≠ s.bufcnt.toNat) → bufByte t.buf k = bufByte s.buf k := by
  rcases exec_next h with ⟨code, rfl⟩ | he
  · exact ⟨by simpa using raiseError_frame code s, by simp⟩
  · obtain ⟨-, rfl⟩ := effectOf_final_next he
    refine ⟨rfl, fun k hk => ?_⟩
    rw [padAndStart_buf, padFirst, bufByte_updateBuf_same]
    rw [if_neg (by omega), if_neg (by omega)]

/-- Settles O45, command by command. -/
theorem commandFrames : Obligations.CommandFrames := by
  intro s t
  refine ⟨fun h => ?_, frame_clrerr, fun _ => frame_readOut, fun _ => frame_init, fun _ => frame_absorb, frame_final⟩
  cases (nopChangesNothing.1 s).symm.trans h
  rfl

/-! ### A step that changes a field -/

/-- A field that is not the schedule, not what was read, and not the error record. -/
def OwnField {α : Type} (f : State → α) : Prop :=
  ∀ (s : State) (inputs : List Input) (reads : List Word) (err : Bool) (errcode : ErrCode),
    f { s with inputs := inputs, reads := reads, err := err, errcode := errcode } = f s

/-- An accepted command and its effect, if it can change such a field. -/
inductive Writes (s : State) : Instr → State → Prop where
  | init (alg : Alg) : Writes s (.init alg) (beginDigest alg s)
  | absorb (b : Byte) (hn : s.bufcnt.toNat < 128) : Writes s (.absorb b) (absorbByte b s)
  | final : Writes s .final (padAndStart s)
  | readOut {i : Instr} (value : Word)
      (hi : (∃ idx, i = .rdbyte idx ∨ i = .rdhex idx ∨ i = .rdb64 idx) ∨ (∃ j half, i = .rdchain j half)) :
      Writes s i (setResult value s)

/-- NOP and CLRERR change no such field. -/
theorem writes_of_effectOf {α : Type} {f : State → α} (hf : OwnField f) {i : Instr} {s t : State}
    (h : effectOf i s = .next t) (hne : f t ≠ f s) : Writes s i t := by
  cases i with
  | nop =>
    cases h
    exact absurd rfl hne
  | clrerr =>
    cases h
    exact absurd (hf s s.inputs s.reads _ _) hne
  | init alg =>
    cases h
    exact .init alg
  | absorb b =>
    obtain ⟨hn, rfl⟩ := effectOf_absorb_next h
    exact .absorb b hn
  | final =>
    obtain ⟨-, rfl⟩ := effectOf_final_next h
    exact .final
  | rdbyte idx =>
    cases h
    exact .readOut _ (.inl ⟨idx, .inl rfl⟩)
  | rdhex idx =>
    cases h
    exact .readOut _ (.inl ⟨idx, .inr (.inl rfl)⟩)
  | rdb64 idx =>
    cases h
    exact .readOut _ (.inl ⟨idx, .inr (.inr rfl)⟩)
  | rdchain j half =>
    cases h
    exact .readOut _ (.inr ⟨j, half, rfl⟩)

/-- All a step that changes such a field can be: the engine's turn, RESET, or the effect of an accepted command. -/
theorem step_changes_cases {α : Type} {f : State → α} (hf : OwnField f) {s t : State} (h : step s = .next t)
    (hne : f t ≠ f s) :
    (∃ xs, EngineMoves s { s with inputs := xs } ∧ t = engineTurn { s with inputs := xs }) ∨
    (s.inputs.head? = some .reset ∧ ∃ rest, t = resetState { s with inputs := rest }) ∨
    (∃ i rest, nextCommand s = some i ∧ rejection i s = none ∧ Writes { s with inputs := rest } i t) := by
  have hrest (rest : List Input) : f { s with inputs := rest } = f s := hf s rest s.reads s.err s.errcode
  have hraise (code : ErrCode) (rest : List Input) : f (raiseError code { s with inputs := rest }) = f s := by
    rw [raiseError_frame]
    exact hf s rest s.reads _ _
  rcases step_cases h with ⟨s0, hm, rfl⟩ | ⟨off, rest, -, -, rfl⟩ | ⟨rest, hi, rfl⟩ | ⟨off, v, rest, -, -, -, rfl⟩ |
    ⟨w, why, rest, -, -, rfl⟩ | ⟨w, i, rest, hi, hd, hnext, he⟩
  · exact .inl ⟨s0.inputs, hm.eq ▸ hm, congrArg engineTurn hm.eq⟩
  · exact absurd (hf s rest _ s.err s.errcode) hne
  · exact .inr (.inl ⟨congrArg List.head? hi, rest, rfl⟩)
  · exact absurd (hrest rest) hne
  · exact absurd (hraise _ rest) hne
  · rcases exec_cases i { s with inputs := rest } with ⟨hr, heff⟩ | ⟨code, -, heff⟩ <;> rw [heff] at he
    · exact .inr (.inr ⟨i, rest, hnext, hr, writes_of_effectOf hf he ((hrest rest).symm ▸ hne)⟩)
    · cases he
      exact absurd (hraise code rest) hne

/-! ### What each operation leaves alone -/

@[simp] theorem absorbByte_alg (b : Byte) (s : State) : (absorbByte b s).alg = s.alg := by rw [absorbByte_frame]
@[simp] theorem absorbByte_phase (b : Byte) (s : State) : (absorbByte b s).phase = s.phase := by rw [absorbByte_frame]
@[simp] theorem absorbByte_h (b : Byte) (s : State) : (absorbByte b s).h = s.h := by rw [absorbByte_frame]
@[simp] theorem absorbByte_result (b : Byte) (s : State) : (absorbByte b s).result = s.result := by rw [absorbByte_frame]

/-- The engine's turn leaves ALG, LEN and RESULT alone. -/
theorem engineTurn_frame (s : State) :
    (engineTurn s).alg = s.alg ∧ (engineTurn s).len = s.len ∧ (engineTurn s).result = s.result := by
  cases hb : s.busy with
  | false => rw [engineTurn_idle s hb]; exact ⟨rfl, rfl, rfl⟩
  | true =>
    obtain ⟨halg, hlen, -, -, hresult, -⟩ := engineStep_frame s
    rw [engineTurn_busy s hb]
    exact ⟨halg, hlen, hresult⟩

/-- A command that can change such a field is accepted only when the engine is idle. -/
theorem Writes.accepted {s t : State} {i : Instr} {rest : List Input} (hw : Writes { s with inputs := rest } i t)
    (hr : rejection i s = none) :
    s.busy = false ∧ legalPhase i s.phase = true ∧ ∀ b, i = .absorb b → s.len ≠ maxLen := by
  refine accepted_of_rejection_none hr ?_
  rintro rfl
  cases hw with
  | readOut value hi => rcases hi with ⟨idx, h | h | h⟩ | ⟨j, half, h⟩ <;> cases h

/-! ### The writers of each field -/

/-- Settles O46, from the ways a step can change an element. -/
theorem algWriters : Obligations.AlgWriters := by
  intro s t h hne
  rcases step_changes_cases (f := State.alg) (fun _ _ _ _ _ => rfl) h hne with
    ⟨xs, hm, rfl⟩ | ⟨hreset, rest, rfl⟩ | ⟨i, rest, hi, hr, hw⟩
  · exact absurd (engineTurn_frame _).1 hne
  · exact .inr ⟨hreset, rfl⟩
  · obtain ⟨hb, -⟩ := hw.accepted hr
    cases hw with
    | init alg => exact .inl ⟨alg, hi, hb, rfl⟩
    | absorb b _ => exact absurd (absorbByte_alg b _) hne
    | final => exact absurd rfl hne
    | readOut value _ => exact absurd rfl hne

/-- Settles O51, from the ways a step can change an element. -/
theorem resultWriters : Obligations.ResultWriters := by
  intro s t h hne
  rcases step_changes_cases (f := State.result) (fun _ _ _ _ _ => rfl) h hne with
    ⟨xs, hm, rfl⟩ | ⟨hreset, rest, rfl⟩ | ⟨i, rest, hi, hr, hw⟩
  · exact absurd (engineTurn_frame _).2.2 hne
  · exact .inr ⟨hreset, rfl⟩
  · obtain ⟨hb, -⟩ := hw.accepted hr
    cases hw with
    | init alg => exact .inl ⟨hb, _, hi, hr, .inr (.inr ⟨⟨alg, rfl⟩, rfl⟩)⟩
    | absorb b _ => exact absurd (absorbByte_result b _) hne
    | final => exact absurd rfl hne
    | readOut value hread => exact .inl ⟨hb, i, hi, hr, hread.imp id .inl⟩

/-- Settles O52: an accepted ABSORB finds LEN below its largest value, so LEN does not wrap. -/
theorem lengthCounterWriters : Obligations.LengthCounterWriters := by
  intro s t h hne
  rcases step_changes_cases (f := State.len) (fun _ _ _ _ _ => rfl) h hne with
    ⟨xs, hm, rfl⟩ | ⟨hreset, rest, rfl⟩ | ⟨i, rest, hi, hr, hw⟩
  · exact absurd (engineTurn_frame _).2.1 hne
  · exact .inr ⟨rfl, .inr hreset⟩
  · obtain ⟨hb, hp, hl⟩ := hw.accepted hr
    cases hw with
    | init alg => exact .inr ⟨rfl, .inl ⟨alg, hi, hb⟩⟩
    | absorb b _ =>
      refine .inl ⟨b, hi, hb, beq_iff_eq.mp hp, ?_⟩
      rw [absorbByte_len, toNat_len_add_one (hl b rfl)]
    | final => exact absurd rfl hne
    | readOut value _ => exact absurd rfl hne

/-- Settles O49: of what the engine does, only a feed-forward writes H. -/
theorem chainingRegisterWriters : Obligations.ChainingRegisterWriters := by
  intro s t h hne
  rcases step_changes_cases (f := State.h) (fun _ _ _ _ _ => rfl) h hne with
    ⟨xs, hm, rfl⟩ | ⟨hreset, -⟩ | ⟨i, rest, hi, hr, hw⟩
  · rcases engineTurn_cases { s with inputs := xs } with
      ⟨-, e⟩ | ⟨-, -, e⟩ | ⟨hb, hr, -⟩ | ⟨hb, hr, -⟩ | ⟨hb, hr, -⟩
    · exact absurd (congrArg State.h e) hne
    · exact absurd (congrArg State.h e) hne
    all_goals exact .inr (.inl ⟨⟨_, hm⟩, hb, hr⟩)
  · exact .inr (.inr hreset)
  · obtain ⟨hb, -⟩ := hw.accepted hr
    cases hw with
    | init alg => exact .inl ⟨alg, hi, hb⟩
    | absorb b _ => exact absurd (absorbByte_h b _) hne
    | final => exact absurd rfl hne
    | readOut value _ => exact absurd rfl hne

/-- Settles O47: of what the engine does, only the feed-forward that ends a FINAL moves PHASE. -/
theorem phaseTransitions : Obligations.PhaseTransitions := by
  intro s t h hne
  rcases step_changes_cases (f := State.phase) (fun _ _ _ _ _ => rfl) h hne with
    ⟨xs, hm, rfl⟩ | ⟨hreset, rest, rfl⟩ | ⟨i, rest, hi, hr, hw⟩
  · rcases engineTurn_cases { s with inputs := xs } with
      ⟨-, e⟩ | ⟨-, -, e⟩ | ⟨-, -, -, -, e⟩ | ⟨hb, hr, hp, hn, e⟩ | ⟨-, -, -, e⟩
    case inr.inr.inr.inl => exact .inr (.inr (.inr ⟨⟨_, hm⟩, hb, hr, hp, hn, congrArg State.phase e⟩))
    all_goals exact absurd (congrArg State.phase e) hne
  · exact .inl ⟨hreset, rfl⟩
  · obtain ⟨hb, hp, -⟩ := hw.accepted hr
    cases hw with
    | init alg => exact .inr (.inl ⟨alg, hi, hb, rfl⟩)
    | absorb b _ => exact absurd (absorbByte_phase b _) hne
    | final => exact .inr (.inr (.inl ⟨hi, hb, beq_iff_eq.mp hp, rfl⟩))
    | readOut value _ => exact absurd rfl hne

/-- Settles O48: an idle engine's turn sets nothing, and a busy engine takes no command that writes BUSY. -/
theorem busyTransitions : Obligations.BusyTransitions := by
  intro s t h
  constructor
  · intro hs ht
    have hne : t.busy ≠ s.busy := by rw [hs, ht]; nofun
    rcases step_changes_cases (f := State.busy) (fun _ _ _ _ _ => rfl) h hne with
      ⟨xs, hm, rfl⟩ | ⟨-, rest, rfl⟩ | ⟨i, rest, hi, hr, hw⟩
    · exact absurd (congrArg State.busy (engineTurn_idle { s with inputs := xs } hs)) hne
    · cases ht
    · obtain ⟨-, hp, -⟩ := hw.accepted hr
      cases hw with
      | init alg => exact absurd rfl hne
      | absorb b hn =>
        refine ⟨beq_iff_eq.mp hp, .inl ⟨b, hi, ?_⟩⟩
        rcases absorbByte_cases b { s with inputs := rest } with ⟨hfull, -⟩ | ⟨-, e⟩
        · exact (toNat_bufcnt_add_one hn).symm.trans hfull
        · exact absurd (congrArg State.busy e) hne
      | final => exact ⟨beq_iff_eq.mp hp, .inr hi⟩
      | readOut value _ => exact absurd rfl hne
  · intro hs ht
    have hne : t.busy ≠ s.busy := by rw [hs, ht]; nofun
    rcases step_changes_cases (f := State.busy) (fun _ _ _ _ _ => rfl) h hne with
      ⟨xs, hm, rfl⟩ | ⟨hreset, -⟩ | ⟨i, rest, hi, hr, hw⟩
    · rcases engineTurn_cases { s with inputs := xs } with
        ⟨-, e⟩ | ⟨-, -, e⟩ | ⟨-, -, -, -, e⟩ | ⟨-, hr, -, hn, -⟩ | ⟨-, hr, hp, -⟩
      · exact absurd (congrArg State.busy e) hne
      · exact absurd (congrArg State.busy e) hne
      · cases (congrArg State.busy e).symm.trans ht
      · exact .inr ⟨⟨_, hm⟩, hr, fun hlast => hn hlast.2⟩
      · exact .inr ⟨⟨_, hm⟩, hr, fun hlast => hp hlast.1⟩
    · exact .inl hreset
    · cases (hw.accepted hr).1.symm.trans hs

/-- Settles O27: a busy engine takes no command that writes BUF, and of its own moves only one does. -/
theorem bufStableDuringCompression : Obligations.BufStableDuringCompression := by
  intro s t hb h hreset hlast
  by_contra hne
  rcases step_changes_cases (f := State.buf) (fun _ _ _ _ _ => rfl) h hne with
    ⟨xs, hm, rfl⟩ | ⟨hreset', -⟩ | ⟨i, rest, hi, hr, hw⟩
  · rcases engineTurn_cases { s with inputs := xs } with
      ⟨-, e⟩ | ⟨-, -, e⟩ | ⟨-, hr, hp, hn, -⟩ | ⟨-, -, -, -, e⟩ | ⟨-, -, -, e⟩
    case inr.inr.inl => exact hlast ⟨⟨_, hm⟩, hr, hp, hn⟩
    all_goals exact absurd (congrArg State.buf e) hne
  · exact hreset hreset'
  · cases (hw.accepted hr).1.symm.trans hb

end Sys2Proof.Machine
end

section
/-! The run of a block (44_md5_compression.md, 45_sha512_compression.md, 47_control.md section 3): the engine's turns from
start_block() on are the rounds of the block function, then its feed-forward. -/

namespace Sys2Proof.Machine

/-! ### Rounds and feed-forward on register files -/

/-- Round `t` on a register file. -/
def roundFile (alg : Alg) (block : List Byte) (t : Nat) (v : Vector DWord 8) : Vector DWord 8 :=
  match alg with
  | .md5 => storeMd5 v (md5Round block t (loadMd5 v))
  | .sha512 => storeSha v (sha512Round (shaWord block t) t (loadSha v))

/-- The register file after rounds 0 .. n-1. -/
def roundFiles (alg : Alg) (block : List Byte) (v : Vector DWord 8) : Nat → Vector DWord 8
  | 0 => v
  | n + 1 => roundFile alg block n (roundFiles alg block v n)

/-- The feed-forward of V into H. -/
def feedFile (alg : Alg) (h v : Vector DWord 8) : Vector DWord 8 :=
  match alg with
  | .md5 => md5FeedH h v
  | .sha512 => sha512FeedH h v

/-- The block function on a register file. -/
def compressFile (alg : Alg) (h : Vector DWord 8) (block : List Byte) : Vector DWord 8 :=
  feedFile alg h (roundFiles alg block h (rounds alg))

theorem roundV_eq (s : State) : roundV s = roundFile s.alg (blockOf s.alg s.buf) s.rnd.toNat s.v := by
  unfold roundV
  cases ha : s.alg <;> rfl

theorem feedH_eq (s : State) : feedH s = feedFile s.alg s.h s.v := rfl

theorem loadMd5_roundFiles (block : List Byte) (v : Vector DWord 8) (n : Nat) :
    loadMd5 (roundFiles .md5 block v n) = md5Rounds block (loadMd5 v) n := by
  induction n with
  | zero => rfl
  | succ n ih => rw [roundFiles, roundFile, loadMd5_storeMd5, ih, md5Rounds_succ]

theorem loadSha_roundFiles (block : List Byte) (v : Vector DWord 8) (n : Nat) :
    loadSha (roundFiles .sha512 block v n) = sha512Rounds block (loadSha v) n := by
  induction n with
  | zero => rfl
  | succ n ih => rw [roundFiles, roundFile, loadSha_storeSha, ih, sha512Rounds_succ]

/-- On the MD5 registers the block function is md5_compress (R162, R163). -/
theorem loadMd5_compressFile (h : Vector DWord 8) (block : List Byte) :
    loadMd5 (compressFile .md5 h block) = md5Compress (loadMd5 h) block := by
  have hout := loadMd5_roundFiles block h 64
  have hlow {i : Nat} (hi : i < 4) (v : Vector DWord 8) :
      lowWord (regAt (md5FeedH h v) i) = add32 (lowWord (regAt h i)) (lowWord (regAt v i)) := by
    rw [regAt_md5FeedH_low h v hi, lowWord_zext64, add32]
  rw [compressFile, feedFile, md5Compress, ← hout]
  simp only [loadMd5, rounds, hlow (show 0 < 4 by decide), hlow (show 1 < 4 by decide), hlow (show 2 < 4 by decide),
    hlow (show 3 < 4 by decide)]

/-- On the SHA-512 registers it is sha512_compress (R172, R173). -/
theorem loadSha_compressFile (h : Vector DWord 8) (block : List Byte) :
    loadSha (compressFile .sha512 h block) = sha512Compress (loadSha h) block := by
  have hout := loadSha_roundFiles block h 80
  rw [compressFile, feedFile, sha512Compress, ← hout]
  simp only [loadSha, rounds, add64, regAt_sha512FeedH, Nat.reduceLT]

/-! ### The engine at round `k` of a started block -/

/-- The state `k` rounds after start_block(). -/
def atRound (s : State) (k : Nat) : State :=
  { s with v := roundFiles s.alg (blockOf s.alg s.buf) s.h k, rnd := BitVec.ofNat 7 k, busy := true }

@[simp] theorem atRound_zero (s : State) : atRound s 0 = startBlock s := rfl

theorem atRound_rnd {s : State} {k : Nat} (hk : k ≤ rounds s.alg) : (atRound s k).rnd.toNat = k := by
  have := rounds_cases s.alg
  exact Nat.mod_eq_of_lt (by omega)

/-- Below R the engine's turn is the next round. -/
theorem engineTurn_atRound {s : State} {k : Nat} (hk : k < rounds s.alg) :
    engineTurn (atRound s k) = atRound s (k + 1) := by
  have hrnd := atRound_rnd hk.le
  have hadd : BitVec.ofNat 7 k + 1 = BitVec.ofNat 7 (k + 1) := by
    rw [BitVec.ofNat_add]
    rfl
  rw [engineTurn_of_lt rfl (hrnd.trans_lt hk), roundV_eq, hrnd]
  exact congrArg (fun r => { atRound s (k + 1) with rnd := r }) hadd

/-- At R it is the feed-forward, which completes the block. -/
theorem engineTurn_atRound_last (s : State) :
    engineTurn (atRound s (rounds s.alg)) =
      completeBlock { atRound s (rounds s.alg) with h := compressFile s.alg s.h (blockOf s.alg s.buf) } :=
  engineTurn_of_ge rfl (atRound_rnd le_rfl).ge

/-! ### Runs with no input left -/

theorem engineTurn_inputs (s : State) : (engineTurn s).inputs = s.inputs := by
  cases hb : s.busy with
  | false => rw [engineTurn_idle s hb]
  | true =>
    obtain ⟨-, -, -, -, -, hinputs, -⟩ := engineStep_frame s
    rw [engineTurn_busy s hb, hinputs]

/-- With no input left every step is the engine's turn. -/
theorem runSteps_of_no_inputs {s : State} (hi : s.inputs = []) (n : Nat) :
    runSteps n s = .next (engineTurn^[n] s) := by
  induction n generalizing s with
  | zero => rfl
  | succ n ih =>
    rw [runSteps_succ n (step_nil s hi), ih ((engineTurn_inputs s).trans hi), Function.iterate_succ_apply]

theorem iterate_engineTurn_startBlock {s : State} {k : Nat} (hk : k ≤ rounds s.alg) :
    engineTurn^[k] (startBlock s) = atRound s k := by
  induction k with
  | zero => rfl
  | succ k ih => rw [Function.iterate_succ_apply', ih (by omega), engineTurn_atRound hk]

/-- For R turns a started block is in its rounds. -/
theorem runSteps_startBlock {s : State} (hi : s.inputs = []) {k : Nat} (hk : k ≤ rounds s.alg) :
    runSteps k (startBlock s) = .next (atRound s k) := by
  rw [runSteps_of_no_inputs (s := startBlock s) hi, iterate_engineTurn_startBlock hk]

/-- The turn after them completes the block with the block function of H in H. -/
theorem runSteps_startBlock_last {s : State} (hi : s.inputs = []) :
    runSteps (rounds s.alg + 1) (startBlock s) =
      .next (completeBlock { atRound s (rounds s.alg) with h := compressFile s.alg s.h (blockOf s.alg s.buf) }) := by
  rw [runSteps_of_no_inputs (s := startBlock s) hi, Function.iterate_succ_apply', iterate_engineTurn_startBlock le_rfl,
    engineTurn_atRound_last]

/-- While the rounds run the engine is busy, counts them and keeps H and BUF. -/
theorem runSteps_rounds {s : State} (hi : s.inputs = []) {k : Nat} (hk : k ≤ rounds s.alg) :
    ∃ u, runSteps k (startBlock s) = .next u ∧ u.busy = true ∧ u.rnd.toNat = k ∧ u.h = s.h ∧ u.buf = s.buf :=
  ⟨_, runSteps_startBlock hi hk, rfl, atRound_rnd hk, rfl, rfl⟩

/-- After the feed-forward H holds the block function of the old H, and the block is completed. -/
theorem runSteps_block {s : State} (hi : s.inputs = []) :
    ∃ t, runSteps (rounds s.alg + 1) (startBlock s) = .next t ∧ t.h = compressFile s.alg s.h (blockOf s.alg s.buf) ∧
      ∃ u, runSteps (rounds s.alg) (startBlock s) = .next u ∧ CompletesBlock u t :=
  ⟨_, runSteps_startBlock_last hi, (completeBlock_frame _).1, _, runSteps_startBlock hi le_rfl,
    completesBlock_completeBlock (atRound s (rounds s.alg)) _⟩

/-- Settles O28: each round of the engine is a round of md5_compress, and the last turn its feed-forward. -/
theorem blockRunIsMd5Compress : Obligations.BlockRunIsMd5Compress := by
  intro s ha hi
  have hR : rounds s.alg = 64 := by rw [ha]; rfl
  refine ⟨fun k hk => runSteps_rounds hi (hk.trans_eq hR.symm), ?_⟩
  obtain ⟨t, ht, hh, hdone⟩ := runSteps_block hi
  rw [hR] at ht hdone
  rw [ha] at hh
  refine ⟨t, ht, ?_, fun i hi => ?_, fun i hi h8 => ?_, hdone⟩ <;> rw [hh]
  · exact loadMd5_compressFile _ _
  · exact regAt_md5FeedH_low s.h _ hi ▸ zext64_lt _
  · exact regAt_md5FeedH_high s.h _ hi h8

/-- Settles O29: each round of the engine is a round of sha512_compress, and the last turn its feed-forward. -/
theorem blockRunIsSha512Compress : Obligations.BlockRunIsSha512Compress := by
  intro s ha hi
  have hR : rounds s.alg = 80 := by rw [ha]; rfl
  refine ⟨fun k hk => runSteps_rounds hi (hk.trans_eq hR.symm), ?_⟩
  obtain ⟨t, ht, hh, hdone⟩ := runSteps_block hi
  rw [hR] at ht hdone
  rw [ha] at hh
  exact ⟨t, ht, hh ▸ loadSha_compressFile _ _, hdone⟩

/-! ### How many turns the engine still needs -/

/-- The engine's turns until BUSY = 0: the rounds left and the feed-forward, and as much as a whole block when a second
padding block follows. -/
def turnsLeft (s : State) : Nat :=
  if s.busy then
    rounds s.alg - s.rnd.toNat + 1 + if s.phase = .final ∧ s.nblk = 2 then rounds s.alg + 1 else 0
  else 0

theorem turnsLeft_of_idle {s : State} (hb : s.busy = false) : turnsLeft s = 0 := by
  simp [turnsLeft, hb]

theorem turnsLeft_eq_zero_iff (s : State) : turnsLeft s = 0 ↔ s.busy = false := by
  cases hb : s.busy <;> simp [turnsLeft, hb]

theorem turnsLeft_le (s : State) : turnsLeft s ≤ 2 * (rounds s.alg + 1) := by
  unfold turnsLeft
  split_ifs <;> omega

/-- A started block needs its rounds and its feed-forward, and those of a second padding block where one follows. -/
theorem turnsLeft_startBlock (s : State) :
    turnsLeft (startBlock s) =
      rounds s.alg + 1 + if s.phase = .final ∧ s.nblk = 2 then rounds s.alg + 1 else 0 := rfl

/-- Each turn is one less to go. -/
theorem turnsLeft_engineTurn (s : State) : turnsLeft (engineTurn s) = turnsLeft s - 1 := by
  rcases engineTurn_cases s with ⟨hb, e⟩ | ⟨hb, hr, e⟩ | ⟨hb, hr, hp, hn, e⟩ | ⟨hb, hr, hp, hn, e⟩ | ⟨hb, hr, hp, e⟩ <;>
    rw [e]
  · rw [turnsLeft_of_idle hb]
  · simp only [turnsLeft, hb, if_true, toNat_rnd_add_one hr]
    omega
  · have hpad : turnsLeft (padSecond { s with h := feedH s }) = rounds s.alg + 1 :=
      (turnsLeft_startBlock _).trans (by simp)
    rw [hpad, turnsLeft, if_pos hb, if_pos ⟨hp, hn⟩]
    omega
  · have hlast : ¬ (s.phase = .final ∧ s.nblk = 2) := fun h => hn h.2
    rw [turnsLeft_of_idle rfl, turnsLeft, if_pos hb, if_neg hlast]
    omega
  · have hlast : ¬ (s.phase = .final ∧ s.nblk = 2) := fun h => hp h.1
    rw [turnsLeft_of_idle rfl, turnsLeft, if_pos hb, if_neg hlast]
    omega

theorem turnsLeft_iterate_engineTurn (s : State) (n : Nat) : turnsLeft (engineTurn^[n] s) = turnsLeft s - n := by
  induction n with
  | zero => rfl
  | succ n ih => rw [Function.iterate_succ_apply', turnsLeft_engineTurn, ih, Nat.sub_sub]

/-- A FINAL's work is going on, or has ended in DONE. -/
def EndsInDone (s : State) : Prop := (s.busy = true → s.phase = .final) ∧ (s.busy = false → s.phase = .done)

theorem endsInDone_padAndStart (s : State) : EndsInDone (padAndStart s) := ⟨fun _ => rfl, nofun⟩

theorem endsInDone_engineTurn {s : State} (h : EndsInDone s) : EndsInDone (engineTurn s) := by
  rcases engineTurn_cases s with ⟨-, e⟩ | ⟨-, -, e⟩ | ⟨-, -, hp, -, e⟩ | ⟨-, -, -, -, e⟩ | ⟨hb, -, hp, -⟩
  · rwa [e]
  · rwa [e]
  · rw [e]
    exact ⟨fun _ => hp, nofun⟩
  · rw [e]
    exact ⟨nofun, fun _ => rfl⟩
  · exact absurd (h.1 hb) hp

theorem endsInDone_iterate_engineTurn {s : State} (h : EndsInDone s) (n : Nat) : EndsInDone (engineTurn^[n] s) := by
  induction n with
  | zero => exact h
  | succ n ih =>
    rw [Function.iterate_succ_apply']
    exact endsInDone_engineTurn ih

/-- FINAL's work takes R + 1 turns when the length field fits in its first block, and twice that when it does not. -/
theorem turnsLeft_padAndStart (s : State) :
    turnsLeft (padAndStart s) =
      if s.bufcnt.toNat ≤ blockSize s.alg - lenFieldSize s.alg - 1 then rounds s.alg + 1 else 2 * (rounds s.alg + 1) := by
  rw [padAndStart, turnsLeft_startBlock]
  by_cases hfits : s.bufcnt.toNat ≤ blockSize s.alg - lenFieldSize s.alg - 1
  · simp [lenFits, hfits]
  · simp [lenFits, hfits]
    omega

/-- With no input left, FINAL's work goes on for exactly that many turns and then stands in DONE. -/
theorem runSteps_padAndStart {s : State} (hi : s.inputs = []) :
    (∃ t, runSteps (turnsLeft (padAndStart s)) (padAndStart s) = .next t ∧ t.busy = false ∧ t.phase = .done) ∧
      ∀ k, k < turnsLeft (padAndStart s) →
        ∃ t, runSteps k (padAndStart s) = .next t ∧ t.busy = true ∧ t.phase = .final := by
  have hrun (k : Nat) := runSteps_of_no_inputs (s := padAndStart s) hi k
  have hdone (k : Nat) := endsInDone_iterate_engineTurn (endsInDone_padAndStart s) k
  have hidle (k : Nat) : (engineTurn^[k] (padAndStart s)).busy = false ↔ turnsLeft (padAndStart s) ≤ k := by
    rw [← turnsLeft_eq_zero_iff, turnsLeft_iterate_engineTurn, Nat.sub_eq_zero_iff_le]
  constructor
  · have hb := (hidle _).mpr le_rfl
    exact ⟨_, hrun _, hb, (hdone _).2 hb⟩
  · intro k hk
    have hb := Bool.eq_true_of_not_eq_false fun h => hk.not_ge ((hidle k).mp h)
    exact ⟨_, hrun k, hb, (hdone k).1 hb⟩

/-! ### A host at a wait (R79) -/

/-- A `wait` reads STATUS and is repeated exactly while BUSY = 1. -/
theorem HostRun.move_host_wait (rest : List HostOp) (s : State) :
    HostRun.move .host { todo := .wait :: rest, machine := s } =
      .next { todo := if s.busy then .wait :: rest else rest, machine := busRead 0x04 s } := by
  rw [← HostOp.again_wait s]
  rfl

/-- A host whose program is one `wait`: it is still at it, or it has ended and the engine is idle. -/
def AtWait (r : HostRun) : Prop := r.todo = [.wait] ∨ (r.todo = [] ∧ r.machine.busy = false)

/-- Every move keeps a host at its `wait`, or ends it with the engine idle; an engine move is one turn less to go. -/
theorem move_atWait (m : Move) {r : HostRun} (h : AtWait r) :
    ∃ q, r.move m = .next q ∧ AtWait q ∧ turnsLeft q.machine ≤ turnsLeft r.machine - [m].count .engine := by
  obtain ⟨todo, s⟩ := r
  cases m with
  | engine =>
    refine ⟨_, HostRun.move_engine _, ?_, (turnsLeft_engineTurn s).le⟩
    exact h.imp id (And.imp_right fun hb => (congrArg State.busy (engineTurn_idle s hb)).trans hb)
  | reset =>
    refine ⟨_, HostRun.move_reset _, ?_, ?_⟩
    · exact h.imp id (And.imp_right fun _ => rfl)
    · rw [turnsLeft_of_idle rfl]
      exact Nat.zero_le _
  | host =>
    rcases h with htodo | ⟨htodo, hb⟩ <;> simp only at htodo <;> subst htodo
    · refine ⟨_, HostRun.move_host_wait [] s, ?_, le_rfl⟩
      cases hb : s.busy with
      | true => exact .inl rfl
      | false => exact .inr ⟨rfl, hb⟩
    · exact ⟨_, HostRun.move_host_nil s, .inr ⟨rfl, hb⟩, le_rfl⟩

theorem run_atWait (ms : List Move) {r : HostRun} (h : AtWait r) :
    ∃ q, r.run ms = .next q ∧ AtWait q ∧ turnsLeft q.machine ≤ turnsLeft r.machine - ms.count .engine := by
  induction ms generalizing r with
  | nil => exact ⟨r, rfl, h, le_rfl⟩
  | cons m ms ih =>
    obtain ⟨p, hp, hwait, hle⟩ := move_atWait m h
    obtain ⟨q, hq, hwait', hle'⟩ := ih hwait
    refine ⟨q, (HostRun.run_cons ms hp).trans hq, hwait', ?_⟩
    rw [← List.singleton_append, List.count_append]
    omega

/-- Once the engine has had its turns, the next read of a `wait` ends it, if it has not ended before. -/
theorem run_wait_ends {ms : List Move} {s : State} (hms : turnsLeft s ≤ ms.count .engine) :
    ∃ t, HostRun.run (ms ++ [.host]) { todo := [.wait], machine := s } = .next { todo := [], machine := t } ∧
      t.busy = false := by
  obtain ⟨⟨todo, t⟩, hrun, hwait, hle⟩ := run_atWait ms (r := { todo := [.wait], machine := s }) (.inl rfl)
  have hb : t.busy = false := (turnsLeft_eq_zero_iff t).mp (Nat.le_zero.mp (hle.trans (by simp only; omega)))
  rw [HostRun.run_append [.host] hrun]
  rcases hwait with htodo | ⟨htodo, -⟩ <;> simp only at htodo <;> subst htodo
  · refine ⟨busRead 0x04 t, (HostRun.run_cons [] (HostRun.move_host_wait [] t)).trans ?_, hb⟩
    rw [hb]
    rfl
  · exact ⟨t, HostRun.run_cons [] (HostRun.move_host_nil t), hb⟩

/-- Settles O59: the engine is busy while turns are left, and each of its turns is one less. -/
theorem compressionEnds : Obligations.CompressionEnds := by
  refine ⟨fun s _ _ hi => ?_, fun s u hs hb hp hi he => ?_, HostRun.move_host_wait, fun ms s t hrun => ?_,
    fun ms s _ hms => run_wait_ends ((turnsLeft_le s).trans hms)⟩
  · exact ⟨turnsLeft s, _, turnsLeft_le s, runSteps_of_no_inputs hi _,
      (turnsLeft_eq_zero_iff _).mp ((turnsLeft_iterate_engineTurn s _).trans (Nat.sub_self _))⟩
  · obtain ⟨-, habs, -⟩ := hs
    have hn : s.bufcnt.toNat < 128 := ((habs hp).1 hb).1.trans_le (blockSize_le_128 s.alg)
    cases (exec_final_of_accepted (rejection_final_eq_none hb hp) hn).symm.trans he
    simp only [← turnsLeft_padAndStart]
    exact runSteps_padAndStart hi
  · obtain ⟨q, hq, hwait, -⟩ := run_atWait ms (r := { todo := [.wait], machine := s }) (.inl rfl)
    cases hrun.symm.trans hq
    rcases hwait with h | ⟨-, hb⟩
    · cases h
    · exact hb

end Sys2Proof.Machine
end

section
/-! The document's functions that no state is in: rotations (40_primitives.md), padding (42_preprocessor.md section 1) and
the texts of a digest (46_digest.md). -/

namespace Sys2Proof.Machine

/-! ### Rotation to the left (R92) -/

theorem rotl32_eq_rotateLeft (x : Word) {n : Nat} (hn : n < 32) : rotl32 x n = x.rotateLeft n := by
  rw [rotl32, BitVec.rotateLeft_def, Nat.mod_eq_of_lt hn]

theorem getLsbD_rotl32 (x : Word) {n i : Nat} (hn : n < 32) (hi : i < 32) :
    (rotl32 x n).getLsbD i = x.getLsbD ((i + (32 - n)) % 32) := by
  rw [rotl32_eq_rotateLeft x hn, BitVec.getLsbD_rotateLeft, Nat.mod_eq_of_lt hn, Bool.cond_decide]
  split
  · rw [Nat.mod_eq_of_lt (by omega), Nat.add_comm]
  · rw [decide_eq_true hi, Bool.true_and]
    congr 1
    omega

/-- Settles O18, bit by bit. -/
theorem rotationsRotate : Obligations.RotationsRotate :=
  ⟨fun x _ _ _ hk hi => getLsbD_rotl32 x (Nat.lt_succ_of_le hk) hi,
    fun x _ _ _ hn hi => getLsbD_rotr64 x (Nat.lt_succ_of_le hn) hi⟩

/-! ### The length field (R132) -/

theorem toNat_extractLsb'_byte {n : Nat} (x : BitVec n) (lo : Nat) :
    (x.extractLsb' lo 8).toNat = x.toNat / 2 ^ lo % 256 := by
  rw [BitVec.extractLsb'_toNat, Nat.shiftRight_eq_div_pow]

theorem toNat_byteAt_lenField_md5 (len : Nat) {k : Nat} (hk : k < 8) :
    (byteAt (lenField .md5 len) k).toNat = 8 * len % 2 ^ 64 / 2 ^ (8 * k) % 256 := by
  rw [lenField, ← BitVec.toNat_ofNat, byteAt_leBytes _ hk, toNat_extractLsb'_byte]

theorem toNat_byteAt_lenField_sha512 (len : Nat) {k : Nat} (hk : k < 16) :
    (byteAt (lenField .sha512 len) k).toNat = 8 * len % 2 ^ 128 / 2 ^ (8 * (15 - k)) % 256 := by
  rw [lenField, ← BitVec.toNat_ofNat, byteAt_beBytes _ hk, toNat_extractLsb'_byte]

/-- Settles O31: for L < 2^64 the bit length is below 2^67, so it reaches byte 7 and no byte before it. -/
theorem lengthFieldBytes : Obligations.LengthFieldBytes := by
  refine fun len => ⟨lenField_length .md5 len, lenField_length .sha512 len,
    fun k hk => toNat_byteAt_lenField_md5 len hk, fun k hk => toNat_byteAt_lenField_sha512 len hk,
    fun hlen => ⟨fun k hk => BitVec.eq_of_toNat_eq ?_, ?_⟩⟩
  · have hhigh : 2 ^ 67 ≤ 2 ^ (8 * (15 - k)) := Nat.pow_le_pow_right (by decide) (by omega)
    have hsmall : 8 * len % 2 ^ 128 < 2 ^ (8 * (15 - k)) := by omega
    rw [toNat_byteAt_lenField_sha512 len (by omega), Nat.div_eq_of_lt hsmall]
    rfl
  · rw [toNat_byteAt_lenField_sha512 len (by decide)]
    omega

/-! ### The padded message (R130, R133) -/

theorem byteAt_append (xs ys : List Byte) (k : Nat) :
    byteAt (xs ++ ys) k = if k < xs.length then byteAt xs k else byteAt ys (k - xs.length) := by
  unfold byteAt
  split
  next h => exact List.getD_append _ _ _ _ h
  next h => exact List.getD_append_right _ _ _ _ (Nat.le_of_not_lt h)

theorem getElem?_eq_some_byteAt {xs : List Byte} {k : Nat} (hk : k < xs.length) : xs[k]? = some (byteAt xs k) := by
  rw [byteAt, List.getD_eq_getElem _ _ hk, List.getElem?_eq_getElem hk]

/-- Message, 0x80 and zeros end where the length field of the last block begins. -/
theorem length_add_zeroFill (alg : Alg) (len : Nat) :
    len + 1 + zeroFill alg len = blockCount alg len * blockSize alg - lenFieldSize alg := by
  simp only [zeroFill]
  split_ifs <;> cases alg <;> simp only [blockCount, blockSize, lenFieldSize] at * <;> omega

theorem lenFieldSize_le_blockCount (alg : Alg) (len : Nat) :
    lenFieldSize alg ≤ blockCount alg len * blockSize alg := by
  cases alg <;> simp only [blockCount, blockSize, lenFieldSize] <;> omega

theorem zeroFill_lt (alg : Alg) (len : Nat) : zeroFill alg len < blockSize alg := by
  simp only [zeroFill]
  split_ifs <;> cases alg <;> simp only [blockSize, lenFieldSize] at * <;> omega

/-- One block more than the message's whole blocks, or two where the length field does not fit in the tail's. -/
theorem blockCount_eq (alg : Alg) (len : Nat) :
    blockCount alg len =
      if len % blockSize alg ≤ blockSize alg - lenFieldSize alg - 1 then len / blockSize alg + 1
      else len / blockSize alg + 2 := by
  split_ifs <;> cases alg <;> simp only [blockCount, blockSize, lenFieldSize] at * <;> omega

/-- The padded message up to the length field. -/
def padHead (alg : Alg) (m : List Byte) : List Byte := m ++ [0x80] ++ List.replicate (zeroFill alg m.length) 0x00

theorem pad_eq (alg : Alg) (m : List Byte) : pad alg m = padHead alg m ++ lenField alg m.length := rfl

theorem padHead_length (alg : Alg) (m : List Byte) :
    (padHead alg m).length = blockCount alg m.length * blockSize alg - lenFieldSize alg := by
  rw [← length_add_zeroFill]
  simp [padHead, Nat.add_assoc, Nat.add_comm 1]

theorem pad_length (alg : Alg) (m : List Byte) : (pad alg m).length = blockCount alg m.length * blockSize alg := by
  rw [pad_eq, List.length_append, padHead_length, lenField_length]
  exact Nat.sub_add_cancel (lenFieldSize_le_blockCount alg m.length)

/-- The 0x80 and the zeros after it. -/
theorem byteAt_marker (z j : Nat) : byteAt ([0x80] ++ List.replicate z 0x00) j = if j = 0 then 0x80 else 0x00 := by
  cases j with
  | zero => rfl
  | succ j =>
    rw [if_neg (Nat.succ_ne_zero j)]
    simp [byteAt, List.getD_eq_getElem?_getD]

/-- The bytes of the padded message, in order: the message, 0x80, zeros, the length field. -/
theorem byteAt_pad (alg : Alg) (m : List Byte) (k : Nat) :
    byteAt (pad alg m) k =
      if k < m.length then byteAt m k
      else if k = m.length then 0x80
      else if k < blockCount alg m.length * blockSize alg - lenFieldSize alg then 0x00
      else byteAt (lenField alg m.length) (k - (blockCount alg m.length * blockSize alg - lenFieldSize alg)) := by
  have hhead := length_add_zeroFill alg m.length
  rw [pad_eq, byteAt_append, padHead_length]
  by_cases hk : k < blockCount alg m.length * blockSize alg - lenFieldSize alg
  · rw [if_pos hk, if_pos hk, padHead, List.append_assoc, byteAt_append, byteAt_marker]
    rcases lt_trichotomy k m.length with hlt | heq | hgt
    · rw [if_pos hlt, if_pos hlt]
    · rw [if_neg heq.not_lt, if_neg heq.not_lt, if_pos heq, if_pos (by omega)]
    · rw [if_neg hgt.not_gt, if_neg hgt.not_gt, if_neg hgt.ne', if_neg (by omega)]
  · rw [if_neg hk, if_neg (by omega), if_neg (by omega), if_neg hk]

/-- Settles O30, from the bytes of the padded message. -/
theorem paddedMessageShape : Obligations.PaddedMessageShape := by
  intro alg m
  have hlt : m.length < blockCount alg m.length * blockSize alg - lenFieldSize alg := by
    rw [← length_add_zeroFill]
    omega
  have hget {k : Nat} (hk : k < blockCount alg m.length * blockSize alg) :
      (pad alg m)[k]? = some (byteAt (pad alg m) k) := getElem?_eq_some_byteAt (by rwa [pad_length])
  refine ⟨pad_length alg m, zeroFill_lt alg m.length, ?_, ?_, fun k hk hk' => ?_, ?_, blockCount_eq alg m.length⟩
  · simp [pad]
  · rw [hget (by omega), byteAt_pad, if_neg (lt_irrefl _), if_pos rfl]
  · rw [hget (by omega), byteAt_pad, if_neg (by omega), if_neg (by omega), if_pos hk']
  · rw [pad_eq, List.drop_left' (padHead_length alg m)]

/-! ### The hex text (R182) -/

/-- The value of a hex digit is the nibble it stands for. -/
theorem hexValue_hexDigit : ∀ n : BitVec 4, hexValue (hexDigit n) = some n.toNat := by
  decide

theorem hexChar_cons (b : Byte) (d : List Byte) (i : Nat) : hexChar (b :: d) (i + 2) = hexChar d i := by
  have hdiv : (i + 2) / 2 = i / 2 + 1 := by omega
  rw [hexChar, hexChar, hdiv, Nat.add_mod_right]
  rfl

/-- A byte's two digits, then the text of the rest. -/
theorem hexText_cons (b : Byte) (d : List Byte) :
    hexText (b :: d) = hexDigit (b.extractLsb' 4 4) :: hexDigit (b.extractLsb' 0 4) :: hexText d := by
  have hlen : 2 * (b :: d).length = 2 * d.length + 1 + 1 := by rw [List.length_cons, Nat.mul_succ]
  rw [hexText, hlen, List.range_succ_eq_map, List.range_succ_eq_map]
  simp only [List.map_cons, List.map_map, hexText]
  refine congrArg₂ _ rfl (congrArg₂ _ rfl (List.map_congr_left fun i _ => ?_))
  exact hexChar_cons b d i

theorem hexDecode_hexText (d : List Byte) : hexDecode (hexText d) = some d := by
  induction d with
  | nil => rfl
  | cons b d ih =>
    have hbyte : BitVec.ofNat 8 (16 * (b.toNat / 16) + b.toNat % 16) = b := by
      rw [Nat.div_add_mod, BitVec.ofNat_toNat, BitVec.setWidth_eq]
    simp only [hexText_cons, hexDecode, hexValue_hexDigit, ih, toNat_highNibble, toNat_lowNibble, hbyte]

/-! ### The base64 text (R183) -/

/-- The value of a character of ALPHABET is the sextet it stands for. -/
theorem b64Value_b64Alphabet : ∀ n : BitVec 6, b64Value (b64Alphabet n) = some n.toNat := by
  decide

theorem b64Value_pad : b64Value 0x3D = none := by
  decide

/-- Four characters on, three bytes on. -/
theorem b64Char_cons₃ (a b c : Byte) (d : List Byte) (i : Nat) : b64Char (a :: b :: c :: d) (i + 4) = b64Char d i := by
  have hdiv : (i + 4) / 4 = i / 4 + 1 := by omega
  have hlen : (a :: b :: c :: d).length - 3 * (i / 4 + 1) = d.length - 3 * (i / 4) := by
    simp only [List.length_cons]
    omega
  simp only [b64Char, hdiv, Nat.add_mod_right, hlen]
  rfl

/-- Sextet `k` of three bytes, first to last (R183). -/
def sextet (a b c : Byte) (k : Nat) : BitVec 6 := (a ++ b ++ c : BitVec 24).extractLsb' (18 - 6 * k) 6

theorem toNat_sextet (a b c : Byte) (k : Nat) :
    (sextet a b c k).toNat = (a.toNat * 65536 + b.toNat * 256 + c.toNat) / 2 ^ (18 - 6 * k) % 64 := by
  have hgroup : (a ++ b ++ c : BitVec 24).toNat = a.toNat * 65536 + b.toNat * 256 + c.toNat := by
    rw [toNat_append_eq, toNat_append_eq]
    omega
  rw [sextet, BitVec.extractLsb'_toNat, Nat.shiftRight_eq_div_pow, hgroup]

/-- `=` stands exactly in the places of a group past its bytes' characters; the other characters are of ALPHABET. -/
theorem b64Char_cases (d : List Byte) (i : Nat) :
    (min 3 (d.length - 3 * (i / 4)) < i % 4 ∧ b64Char d i = 0x3D) ∨
      (¬ min 3 (d.length - 3 * (i / 4)) < i % 4 ∧ ∃ n, b64Char d i = b64Alphabet n) := by
  unfold b64Char
  dsimp only
  split
  next h => exact .inl ⟨h, rfl⟩
  next h => exact .inr ⟨h, _, rfl⟩

theorem b64Alphabet_ne_pad : ∀ n : BitVec 6, b64Alphabet n ≠ 0x3D := by
  decide

theorem b64Char_eq_pad_iff (d : List Byte) (i : Nat) :
    b64Char d i = 0x3D ↔ min 3 (d.length - 3 * (i / 4)) < i % 4 := by
  rcases b64Char_cases d i with ⟨h, e⟩ | ⟨h, n, e⟩ <;> rw [e]
  · exact iff_of_true rfl h
  · exact iff_of_false (b64Alphabet_ne_pad n) h

theorem byteAt_of_ge {xs : List Byte} {k : Nat} (h : xs.length ≤ k) : byteAt xs k = 0x00 := List.getD_eq_default _ _ h

/-- The characters of a first group that are no `=`: the bytes that are missing read 0. -/
theorem b64Char_of_le {d : List Byte} {k : Nat} (hk : k < 4) (hd : k ≤ d.length) :
    b64Char d k = b64Alphabet (sextet (byteAt d 0) (byteAt d 1) (byteAt d 2) k) := by
  have hdiv : k / 4 = 0 := Nat.div_eq_of_lt hk
  have h1 : (if 2 ≤ min 3 d.length then byteAt d 1 else 0x00) = byteAt d 1 :=
    ite_eq_left_iff.mpr fun h => (byteAt_of_ge (by omega)).symm
  have h2 : (if 3 ≤ min 3 d.length then byteAt d 2 else 0x00) = byteAt d 2 :=
    ite_eq_left_iff.mpr fun h => (byteAt_of_ge (by omega)).symm
  simp only [b64Char, hdiv, Nat.mod_eq_of_lt hk, Nat.mul_zero, Nat.sub_zero, Nat.zero_add, h1, h2,
    if_neg (show ¬ min 3 d.length < k by omega)]
  rfl

/-- The others are `=`. -/
theorem b64Char_of_gt {d : List Byte} {k : Nat} (hk : k < 4) (hd : d.length < k) : b64Char d k = 0x3D := by
  rw [b64Char_eq_pad_iff, Nat.div_eq_of_lt hk, Nat.mod_eq_of_lt hk]
  omega

theorem b64Text_cons₃ (a b c : Byte) (d : List Byte) :
    b64Text (a :: b :: c :: d) = (List.range 4).map (fun k => b64Alphabet (sextet a b c k)) ++ b64Text d := by
  have hlen : 4 * (((a :: b :: c :: d).length + 2) / 3) = 4 + 4 * ((d.length + 2) / 3) := by
    simp only [List.length_cons]
    omega
  rw [b64Text, hlen, List.range_add, List.map_append, List.map_map, b64Text]
  refine congrArg₂ _ (List.map_congr_left fun k hk => ?_) ?_
  · have hk : k < 4 := List.mem_range.mp hk
    exact b64Char_of_le hk (by simp only [List.length_cons]; omega)
  refine List.map_congr_left fun i _ => ?_
  rw [Function.comp_apply, Nat.add_comm 4 i]
  exact b64Char_cons₃ a b c d i

/-- A last group of one byte is two characters and `==`. -/
theorem b64Text_one (a : Byte) :
    b64Text [a] = [b64Alphabet (sextet a 0 0 0), b64Alphabet (sextet a 0 0 1), 0x3D, 0x3D] := by
  have hchars : b64Text [a] = (List.range 4).map (b64Char [a]) := by simp [b64Text]
  rw [hchars, show List.range 4 = [0, 1, 2, 3] from rfl, List.map_cons, List.map_cons, List.map_cons, List.map_singleton,
    b64Char_of_le (k := 0) (by decide) (Nat.zero_le _), b64Char_of_le (k := 1) (by decide) le_rfl,
    b64Char_of_gt (k := 2) (by decide) (by simp), b64Char_of_gt (k := 3) (by decide) (by simp)]
  rfl

/-- A last group of two bytes is three characters and `=`. -/
theorem b64Text_two (a b : Byte) :
    b64Text [a, b] =
      [b64Alphabet (sextet a b 0 0), b64Alphabet (sextet a b 0 1), b64Alphabet (sextet a b 0 2), 0x3D] := by
  have hchars : b64Text [a, b] = (List.range 4).map (b64Char [a, b]) := by simp [b64Text]
  rw [hchars, show List.range 4 = [0, 1, 2, 3] from rfl, List.map_cons, List.map_cons, List.map_cons, List.map_singleton,
    b64Char_of_le (k := 0) (by decide) (Nat.zero_le _), b64Char_of_le (k := 1) (by decide) (by simp),
    b64Char_of_le (k := 2) (by decide) le_rfl, b64Char_of_gt (k := 3) (by decide) (by simp)]
  rfl

/-- Four sextets give back their three bytes. -/
theorem bytes_of_sextets (a b c : Byte) :
    BitVec.ofNat 8 (4 * (sextet a b c 0).toNat + (sextet a b c 1).toNat / 16) = a ∧
      BitVec.ofNat 8 (16 * (sextet a b c 1).toNat + (sextet a b c 2).toNat / 4) = b ∧
      BitVec.ofNat 8 (64 * (sextet a b c 2).toNat + (sextet a b c 3).toNat) = c := by
  have := a.isLt
  have := b.isLt
  have := c.isLt
  simp only [toNat_sextet]
  refine ⟨?_, ?_, ?_⟩ <;> apply BitVec.eq_of_toNat_eq <;> rw [BitVec.toNat_ofNat] <;> omega

/-- Group by group; the last may have one byte or two. -/
theorem b64Decode_b64Text : (d : List Byte) → b64Decode (b64Text d) = some d
  | [] => rfl
  | [a] => by
    obtain ⟨ha, -, -⟩ := bytes_of_sextets a 0 0
    simp only [b64Text_one, b64Decode, b64Value_b64Alphabet, b64Value_pad, ha, and_self, if_true]
  | [a, b] => by
    obtain ⟨ha, hb, -⟩ := bytes_of_sextets a b 0
    simp only [b64Text_two, b64Decode, b64Value_b64Alphabet, b64Value_pad, ha, hb, and_self, if_true]
  | a :: b :: c :: d => by
    obtain ⟨ha, hb, hc⟩ := bytes_of_sextets a b c
    have hgroup : b64Text (a :: b :: c :: d) = b64Alphabet (sextet a b c 0) :: b64Alphabet (sextet a b c 1) ::
        b64Alphabet (sextet a b c 2) :: b64Alphabet (sextet a b c 3) :: b64Text d := b64Text_cons₃ a b c d
    simp only [hgroup, b64Decode, b64Value_b64Alphabet, b64Decode_b64Text d, ha, hb, hc]

/-- Settles O33: a text decodes group by group. -/
theorem textsDecodeToTheDigest : Obligations.TextsDecodeToTheDigest :=
  fun d => ⟨hexDecode_hexText d, b64Decode_b64Text d⟩

/-! ### The characters of the texts -/

theorem hexDigit_range : ∀ n : BitVec 4,
    (0x30 ≤ (hexDigit n).toNat ∧ (hexDigit n).toNat ≤ 0x39) ∨ (0x61 ≤ (hexDigit n).toNat ∧ (hexDigit n).toNat ≤ 0x66) := by
  decide

theorem b64Alphabet_range : ∀ n : BitVec 6,
    (0x41 ≤ (b64Alphabet n).toNat ∧ (b64Alphabet n).toNat ≤ 0x5A) ∨
    (0x61 ≤ (b64Alphabet n).toNat ∧ (b64Alphabet n).toNat ≤ 0x7A) ∨
    (0x30 ≤ (b64Alphabet n).toNat ∧ (b64Alphabet n).toNat ≤ 0x39) ∨ b64Alphabet n = 0x2B ∨ b64Alphabet n = 0x2F := by
  decide

/-- Settles O34: both digest lengths leave one byte for the last group. -/
theorem textCharactersInAlphabet : Obligations.TextCharactersInAlphabet := by
  refine ⟨fun d i => ?_, fun d i => ?_, fun alg d i hd hi => ?_⟩
  · unfold hexChar
    split <;> exact hexDigit_range _
  · rcases b64Char_cases d i with ⟨-, e⟩ | ⟨-, n, e⟩ <;> rw [e]
    · exact .inl rfl
    · exact .inr (b64Alphabet_range n)
  · rw [b64Char_eq_pad_iff, hd]
    cases alg <;> simp only [b64Len, digestLen] at hi ⊢ <;> omega

end Sys2Proof.Machine
end

section
/-! Several engines on one platform (60_exceptions.md R240, 20_memory.md R50): each step and each bus access touches one. -/

namespace Sys2Proof.Machine

/-- A step at place `k` is the step of the state there, put back in its place. -/
theorem stepAt_cases {k : Nat} {p q : Platform} (h : p.stepAt k = .next q) :
    (p[k]? = none ∧ q = p) ∨ ∃ s t, p[k]? = some s ∧ step s = .next t ∧ q = p.set k t := by
  unfold Platform.stepAt at h
  split at h
  next hnone => exact .inl ⟨hnone, (Host.Outcome.next.inj h).symm⟩
  next s hs =>
    split at h
    next t ht => exact .inr ⟨s, t, hs, ht, (Host.Outcome.next.inj h).symm⟩
    next => cases h
    next => cases h

theorem windowOffset_eq_some_iff {base addr off : Nat} :
    windowOffset base addr = some off ↔ base ≤ addr ∧ addr < base + 64 ∧ off = addr - base := by
  simp only [windowOffset, Option.ite_none_right_eq_some, Option.some.injEq, and_assoc, eq_comm (b := off)]

/-- An address is routed to a place whose window holds it, at its offset there. -/
theorem routeAddress_some {base : Nat → Nat} {n addr k off : Nat} (h : routeAddress base n addr = some (k, off)) :
    k < n ∧ base k ≤ addr ∧ addr < base k + 64 ∧ off = addr - base k := by
  obtain ⟨j, hj, hroute⟩ := List.exists_of_findSome?_eq_some h
  obtain ⟨o, hwindow, heq⟩ := Option.map_eq_some_iff.mp hroute
  cases heq
  exact ⟨List.mem_range.mp hj, windowOffset_eq_some_iff.mp hwindow⟩

/-- Posting an input changes the state at its place, and no other. -/
theorem getElem?_post (k : Nat) (x : Input) (p : Platform) (j : Nat) :
    (p.post k x)[j]? = if k = j then p[j]?.map (fun s => { s with inputs := s.inputs ++ [x] }) else p[j]? := by
  rw [Platform.post, List.getElem?_modify]
  split <;> simp

/-- Settles O60. -/
theorem platformInstancesIndependent : Obligations.PlatformInstancesIndependent := by
  refine ⟨fun p q k h => ?_, fun p q addr a h => ?_⟩
  · rcases stepAt_cases h with ⟨hnone, rfl⟩ | ⟨s, t, hs, ht, rfl⟩
    · exact ⟨rfl, fun _ _ => rfl, fun s hs => nomatch hnone.symm.trans hs⟩
    · refine ⟨List.length_set, fun j hj => List.getElem?_set_ne hj.symm, fun s' hs' => ⟨t, ?_, ?_⟩⟩
      · rwa [Option.some.inj (hs'.symm.trans hs)]
      · exact List.getElem?_set_self (List.getElem?_eq_some_iff.mp hs).1
  · obtain ⟨⟨k, off⟩, hroute, rfl⟩ := Option.map_eq_some_iff.mp h
    obtain ⟨hk, hbase, hend, hoff⟩ := routeAddress_some hroute
    have hget : p[k]? = some p[k] := List.getElem?_eq_getElem hk
    refine ⟨k, off, p[k], hget, hbase, hend, hoff, ?_, fun j hj => ?_⟩
    · rw [getElem?_post, if_pos rfl, hget]
      rfl
    · rw [getElem?_post, if_neg hj.symm]

end Sys2Proof.Machine
end

section
/-! A whole digest (42_preprocessor.md section 3, 46_digest.md section 1): what the machine holds after each command of the
script, that harmless inputs and the engine's turns keep it, and what is in H at the end. -/

namespace Sys2Proof.Machine

/-! ### The chaining values as register files (R164, R174, R184) -/

/-- H after the first `n` padded blocks of a message. -/
def chainFile (alg : Alg) (m : List Byte) : Nat → Vector DWord 8
  | 0 => initH alg
  | n + 1 => compressFile alg (chainFile alg m n) (paddedBlock alg m n)

theorem loadMd5_chainFile (m : List Byte) (n : Nat) : loadMd5 (chainFile .md5 m n) = md5Chain m n := by
  induction n with
  | zero =>
    simp only [chainFile, loadMd5, regAt_initH_md5, Nat.reduceLT, lowWord_zext64]
    rfl
  | succ n ih => rw [chainFile, loadMd5_compressFile, ih, md5Chain]

theorem loadSha_chainFile (m : List Byte) (n : Nat) : loadSha (chainFile .sha512 m n) = shaChain m n := by
  induction n with
  | zero =>
    simp only [chainFile, loadSha, regAt_initH_sha512, Nat.reduceLT]
    rfl
  | succ n ih => rw [chainFile, loadSha_compressFile, ih, shaChain]

theorem digestBytes_md5_eq (h : Vector DWord 8) : digestBytes .md5 h = assembleMd5 (loadMd5 h) := by
  simp [digestBytes, assembleMd5, loadMd5, List.range_succ]

theorem digestBytes_sha512_eq (h : Vector DWord 8) : digestBytes .sha512 h = assembleSha (loadSha h) := by
  simp [digestBytes, assembleSha, loadSha, List.range_succ]

/-- After the last padded block H holds the digest. -/
theorem digestBytes_chainFile (alg : Alg) (m : List Byte) :
    digestBytes alg (chainFile alg m (blockCount alg m.length)) = digest alg m := by
  cases alg
  · rw [digestBytes_md5_eq, loadMd5_chainFile, digest]
  · rw [digestBytes_sha512_eq, loadSha_chainFile, digest]

/-! ### A block of the padded message in BUF (R133, R139) -/

/-- BUF holds block `j` when it holds its bytes. -/
theorem blockOf_eq_paddedBlock {alg : Alg} {m : List Byte} {j : Nat} {buf : Vector Byte 128}
    (hj : j < blockCount alg m.length)
    (hbuf : ∀ k, k < blockSize alg → bufByte buf k = byteAt (pad alg m) (j * blockSize alg + k)) :
    blockOf alg buf = paddedBlock alg m j := by
  have hend : j * blockSize alg + blockSize alg ≤ (pad alg m).length := by
    rw [pad_length, ← Nat.succ_mul]
    exact Nat.mul_le_mul_right _ hj
  have hlen : (paddedBlock alg m j).length = blockSize alg := by
    rw [paddedBlock, List.length_take, List.length_drop]
    omega
  refine List.ext_getElem ((blockOf_length alg buf).trans hlen.symm) fun k hk hk' => ?_
  have hkb : k < blockSize alg := hlen ▸ hk'
  simp only [blockOf, paddedBlock, List.getElem_map, List.getElem_range, List.getElem_take, List.getElem_drop]
  rw [hbuf k hkb, byteAt, List.getD_eq_getElem _ _ (by omega)]

/-- Where a message byte stands: in block `i / BS`, which is one of the padded blocks. -/
theorem div_lt_blockCount (alg : Alg) {i len : Nat} (hi : i ≤ len) : i / blockSize alg < blockCount alg len := by
  cases alg <;> simp only [blockCount, blockSize, lenFieldSize] <;> omega

theorem lenFieldSize_lt_blockSize (alg : Alg) : lenFieldSize alg < blockSize alg := by
  cases alg <;> decide

/-- The padded message ends with the block of the message's end, or with the one after it. -/
theorem blockCount_mul_blockSize (alg : Alg) (len : Nat) :
    blockCount alg len * blockSize alg =
      if len % blockSize alg ≤ blockSize alg - lenFieldSize alg - 1 then len / blockSize alg * blockSize alg + blockSize alg
      else len / blockSize alg * blockSize alg + blockSize alg + blockSize alg := by
  rw [blockCount_eq]
  split
  · rw [Nat.succ_mul]
  · rw [Nat.succ_mul, Nat.succ_mul]

/-- FINAL pads the message's last bytes to the block they stand in (R136). -/
theorem bufByte_padFirst_eq_pad {alg : Alg} {m : List Byte} {len : DWord} {buf : Vector Byte 128}
    (hlen : len.toNat = m.length)
    (hbuf : ∀ k, k < m.length % blockSize alg →
      bufByte buf k = byteAt m (m.length / blockSize alg * blockSize alg + k))
    {k : Nat} (hk : k < blockSize alg) :
    bufByte (padFirst alg (m.length % blockSize alg) len buf) k =
      byteAt (pad alg m) (m.length / blockSize alg * blockSize alg + k) := by
  have hend := blockCount_mul_blockSize alg m.length
  have hL := Nat.div_add_mod' m.length (blockSize alg)
  have hLF := lenFieldSize_lt_blockSize alg
  rw [bufByte_padFirst_eq _ _ _ _ (hk.trans_le (blockSize_le_128 alg)), byteAt_pad, hlen]
  rcases lt_trichotomy k (m.length % blockSize alg) with hlt | heq | hgt
  · rw [if_neg hlt.ne, if_pos (.inl hlt), if_pos (by omega), hbuf k hlt]
  · rw [if_pos heq, if_neg (by omega), if_pos (by omega)]
  · have hpad : ¬ (k < m.length % blockSize alg ∨ blockSize alg ≤ k) := not_or.mpr ⟨hgt.not_gt, hk.not_ge⟩
    have hpast : ¬ m.length / blockSize alg * blockSize alg + k < m.length := by omega
    have hmarker : m.length / blockSize alg * blockSize alg + k ≠ m.length := by omega
    rw [if_neg hgt.ne', if_neg hpad, if_neg hpast, if_neg hmarker]
    by_cases hfield : m.length % blockSize alg ≤ blockSize alg - lenFieldSize alg - 1 ∧ blockSize alg - lenFieldSize alg ≤ k
    · rw [if_pos hfield.1] at hend
      rw [if_pos hfield, if_neg (by omega)]
      congr 1
      omega
    · rw [if_neg hfield, if_pos]
      split at hend <;> omega

/-- Where the length field did not fit, pad_second() builds the block after it (R137). -/
theorem bufByte_padSecondBuf_eq_pad {alg : Alg} {m : List Byte} {len : DWord} (buf : Vector Byte 128)
    (hlen : len.toNat = m.length) (hfits : ¬ m.length % blockSize alg ≤ blockSize alg - lenFieldSize alg - 1)
    {k : Nat} (hk : k < blockSize alg) :
    bufByte (padSecondBuf alg len buf) k = byteAt (pad alg m) ((m.length / blockSize alg + 1) * blockSize alg + k) := by
  have hend := blockCount_mul_blockSize alg m.length
  rw [if_neg hfits] at hend
  have hL := Nat.div_add_mod' m.length (blockSize alg)
  have hmod := Nat.mod_lt m.length (blockSize_pos alg)
  have hLF := lenFieldSize_lt_blockSize alg
  have hpast : ¬ m.length / blockSize alg * blockSize alg + blockSize alg + k < m.length := by omega
  have hmarker : m.length / blockSize alg * blockSize alg + blockSize alg + k ≠ m.length := by omega
  rw [bufByte_padSecondBuf _ _ _ _ (hk.trans_le (blockSize_le_128 alg)), byteAt_pad, Nat.succ_mul, lenFieldByte, hlen,
    if_pos hk, if_neg hpast, if_neg hmarker]
  by_cases hfield : k < blockSize alg - lenFieldSize alg
  · rw [if_pos hfield, if_pos (by omega)]
  · rw [if_neg hfield, if_neg (by omega)]
    congr 1
    omega

/-! ### What the machine holds while a message is taken and finished -/

/-- The engine is compressing block `j` of the padded message. -/
def Compressing (alg : Alg) (m : List Byte) (j : Nat) (s : State) : Prop :=
  s.busy = true ∧ s.h = chainFile alg m j ∧ s.v = roundFiles alg (paddedBlock alg m j) s.h s.rnd.toNat ∧
    s.rnd.toNat ≤ rounds alg ∧ blockOf alg s.buf = paddedBlock alg m j

/-- The engine is idle, with the first `i` bytes of the message taken: whole blocks in H, the rest in BUF. -/
def Taken (alg : Alg) (m : List Byte) (i : Nat) (s : State) : Prop :=
  s.busy = false ∧ s.bufcnt.toNat = i % blockSize alg ∧ s.h = chainFile alg m (i / blockSize alg) ∧
    ∀ k, k < i % blockSize alg → bufByte s.buf k = byteAt m (i / blockSize alg * blockSize alg + k)

/-- The first `i` bytes have been absorbed, and the block they end, if they end one, may still be in its rounds. -/
def Absorbing (alg : Alg) (m : List Byte) (i : Nat) (s : State) : Prop :=
  s.alg = alg ∧ s.phase = .absorb ∧ s.len.toNat = i ∧
    (Taken alg m i s ∨ ∃ j, i = (j + 1) * blockSize alg ∧ Compressing alg m j s)

/-- FINAL has been accepted: the engine is at one of the padding's blocks, or has ended with the last. -/
def Finishing (alg : Alg) (m : List Byte) (s : State) : Prop :=
  s.alg = alg ∧ s.len.toNat = m.length ∧
    ((s.phase = .final ∧ s.nblk = 2 ∧ ¬ m.length % blockSize alg ≤ blockSize alg - lenFieldSize alg - 1 ∧
        Compressing alg m (m.length / blockSize alg) s) ∨
      (s.phase = .final ∧ s.nblk = 1 ∧ ∃ j, j + 1 = blockCount alg m.length ∧ Compressing alg m j s) ∨
      (s.phase = .done ∧ s.busy = false ∧ s.h = chainFile alg m (blockCount alg m.length)))

/-- A started block is at round 0. -/
theorem compressing_startBlock {alg : Alg} {m : List Byte} {j : Nat} {s : State} (hh : s.h = chainFile alg m j)
    (hblock : blockOf alg s.buf = paddedBlock alg m j) : Compressing alg m j (startBlock s) :=
  ⟨rfl, hh, rfl, Nat.zero_le _, hblock⟩

/-- A round goes on with the same block. -/
theorem compressing_round {alg : Alg} {m : List Byte} {j : Nat} {s : State} (ha : s.alg = alg)
    (h : Compressing alg m j s) (hr : s.rnd.toNat < rounds s.alg) :
    Compressing alg m j { s with v := roundV s, rnd := s.rnd + 1 } := by
  obtain ⟨hb, hh, hv, -, hblock⟩ := h
  have hrnd := toNat_rnd_add_one hr
  refine ⟨hb, hh, ?_, ?_, hblock⟩
  · simp only [hrnd, roundV_eq, ha, hblock, roundFiles]
    rw [← hv]
  · exact hrnd.trans_le (ha ▸ hr)

/-- The feed-forward adds the block to the chaining value. -/
theorem feedH_of_compressing {alg : Alg} {m : List Byte} {j : Nat} {s : State} (ha : s.alg = alg)
    (h : Compressing alg m j s) (hr : rounds s.alg ≤ s.rnd.toNat) : feedH s = chainFile alg m (j + 1) := by
  obtain ⟨-, hh, hv, hle, -⟩ := h
  have hrnd : s.rnd.toNat = rounds alg := Nat.le_antisymm hle (ha ▸ hr)
  rw [feedH_eq, hv, hrnd, hh, ha]
  rfl

/-! ### The engine's turns keep it -/

theorem absorbing_engineTurn {alg : Alg} {m : List Byte} {i : Nat} {s : State} (h : Absorbing alg m i s) :
    Absorbing alg m i (engineTurn s) := by
  obtain ⟨ha, hp, hlen, hidle | ⟨j, hj, hwork⟩⟩ := id h
  · rwa [engineTurn_idle s hidle.1]
  have hnot : s.phase ≠ .final := hp ▸ nofun
  rcases engineTurn_cases s with ⟨hb, e⟩ | ⟨-, hr, e⟩ | ⟨-, -, hpf, -⟩ | ⟨-, -, hpf, -⟩ | ⟨hb, hr, -, e⟩
  · rwa [e]
  · rw [e]
    exact ⟨ha, hp, hlen, .inr ⟨j, hj, compressing_round ha hwork hr⟩⟩
  · exact absurd hpf hnot
  · exact absurd hpf hnot
  · have hmod : i % blockSize alg = 0 := by rw [hj, Nat.mul_mod_left]
    have hdiv : i / blockSize alg = j + 1 := by rw [hj, Nat.mul_div_cancel _ (blockSize_pos alg)]
    rw [e]
    refine ⟨ha, hp, hlen, .inl ⟨rfl, hmod.symm, ?_, fun k hk => ?_⟩⟩
    · rw [hdiv]
      exact feedH_of_compressing ha hwork hr
    · rw [hmod] at hk
      exact absurd hk (Nat.not_lt_zero k)

theorem finishing_engineTurn {alg : Alg} {m : List Byte} {s : State} (h : Finishing alg m s) :
    Finishing alg m (engineTurn s) := by
  obtain ⟨ha, hlen, ⟨hp, hn, hfits, hwork⟩ | ⟨hp, hn, j, hj, hwork⟩ | ⟨hp, hb, hh⟩⟩ := id h
  · rcases engineTurn_cases s with ⟨-, e⟩ | ⟨-, hr, e⟩ | ⟨-, hr, -, -, e⟩ | ⟨-, -, -, hn', -⟩ | ⟨-, -, hp', -⟩
    · rwa [e]
    · rw [e]
      exact ⟨ha, hlen, .inl ⟨hp, hn, hfits, compressing_round ha hwork hr⟩⟩
    · have hN : m.length / blockSize alg + 1 + 1 = blockCount alg m.length := by rw [blockCount_eq, if_neg hfits]
      rw [e]
      refine ⟨ha, hlen, .inr (.inl ⟨hp, rfl, _, hN, ?_⟩)⟩
      refine compressing_startBlock (feedH_of_compressing ha hwork hr) (blockOf_eq_paddedBlock (by omega) fun k hk => ?_)
      simp only [ha]
      exact bufByte_padSecondBuf_eq_pad s.buf hlen hfits hk
    · exact absurd hn hn'
    · exact absurd hp hp'
  · have hn2 : s.nblk ≠ 2 := hn ▸ nofun
    rcases engineTurn_cases s with ⟨-, e⟩ | ⟨-, hr, e⟩ | ⟨-, -, -, hn', -⟩ | ⟨-, hr, -, -, e⟩ | ⟨-, -, hp', -⟩
    · rwa [e]
    · rw [e]
      exact ⟨ha, hlen, .inr (.inl ⟨hp, hn, j, hj, compressing_round ha hwork hr⟩)⟩
    · exact absurd hn' hn2
    · rw [e]
      exact ⟨ha, hlen, .inr (.inr ⟨rfl, rfl, hj ▸ feedH_of_compressing ha hwork hr⟩)⟩
    · exact absurd hp hp'
  · rwa [engineTurn_idle s hb]

/-! ### The commands of the script -/

theorem absorbing_beginDigest (alg : Alg) (m : List Byte) {s : State} (hb : s.busy = false) :
    Absorbing alg m 0 (beginDigest alg s) := by
  have hmod : 0 % blockSize alg = 0 := Nat.zero_mod _
  refine ⟨rfl, rfl, rfl, .inl ⟨hb, hmod.symm, ?_, fun k hk => ?_⟩⟩
  · rw [Nat.zero_div]
    rfl
  · rw [hmod] at hk
    exact absurd hk (Nat.not_lt_zero k)

/-- An idle engine is in no block. -/
theorem taken_of_idle {alg : Alg} {m : List Byte} {i : Nat} {s : State} (h : Absorbing alg m i s)
    (hb : s.busy = false) : Taken alg m i s := by
  obtain ⟨-, -, -, hidle | ⟨j, -, hwork⟩⟩ := h
  · exact hidle
  · cases hb.symm.trans hwork.1

/-- BUF has the byte at BUFCNT. -/
theorem Taken.bufcnt_lt {alg : Alg} {m : List Byte} {i : Nat} {s : State} (h : Taken alg m i s) :
    s.bufcnt.toNat < 128 := by
  obtain ⟨-, hcnt, -⟩ := h
  exact hcnt ▸ (Nat.mod_lt i (blockSize_pos alg)).trans_le (blockSize_le_128 alg)

/-- The bytes of a block after one more is put at its end. -/
theorem bufByte_putByte_eq {alg : Alg} {m : List Byte} {i : Nat} {buf : Vector Byte 128}
    (hbuf : ∀ k, k < i % blockSize alg → bufByte buf k = byteAt m (i / blockSize alg * blockSize alg + k))
    {k : Nat} (hk : k < i % blockSize alg + 1) :
    bufByte (putByte (i % blockSize alg) (byteAt m i) buf) k = byteAt m (i / blockSize alg * blockSize alg + k) := by
  have hmod := Nat.mod_lt i (blockSize_pos alg)
  have h128 := blockSize_le_128 alg
  rw [bufByte_putByte _ _ _ _ (by omega)]
  split
  next heq => rw [heq, Nat.div_add_mod']
  next hne => exact hbuf k (by omega)

/-- An idle engine takes the next byte of the message, and starts the block it ends. -/
theorem absorbing_absorbByte {alg : Alg} {m : List Byte} {i : Nat} {s : State} (h : Absorbing alg m i s)
    (hb : s.busy = false) (hi : i < m.length) (hlen : m.length < 2 ^ 64) :
    Absorbing alg m (i + 1) (absorbByte (byteAt m i) s) := by
  obtain ⟨-, hcnt, hh, hbuf⟩ := taken_of_idle h hb
  obtain ⟨ha, hp, hl, -⟩ := id h
  have hmod := Nat.mod_lt i (blockSize_pos alg)
  have hput : ∀ k, k < i % blockSize alg + 1 →
      bufByte (putByte s.bufcnt.toNat (byteAt m i) s.buf) k = byteAt m (i / blockSize alg * blockSize alg + k) :=
    fun k hk => hcnt ▸ bufByte_putByte_eq hbuf hk
  have hcnt' : (s.bufcnt + 1).toNat = i % blockSize alg + 1 := by
    rw [toNat_bufcnt_add_one (taken_of_idle h hb).bufcnt_lt, hcnt]
  have hl' : (s.len + 1).toNat = i + 1 := by bv_omega
  have hdm := Nat.div_add_mod' i (blockSize alg)
  rcases absorbByte_cases (byteAt m i) s with ⟨hfull, e⟩ | ⟨hfull, e⟩ <;> rw [e] <;> rw [hcnt', ha] at hfull
  · refine ⟨ha, hp, hl', .inr ⟨i / blockSize alg, ?_, ?_⟩⟩
    · rw [Nat.succ_mul]
      omega
    · refine compressing_startBlock hh (blockOf_eq_paddedBlock (div_lt_blockCount alg hi.le) fun k hk => ?_)
      rw [takeByte_buf, hput k (by omega), byteAt_pad, if_pos (by omega)]
  · have hmod' : (i + 1) % blockSize alg = i % blockSize alg + 1 := mod_add_one_of_lt rfl (by omega)
    have hdiv' : (i + 1) / blockSize alg = i / blockSize alg := by
      rw [Nat.succ_div, if_neg (by rw [Nat.dvd_iff_mod_eq_zero, hmod']; omega), Nat.add_zero]
    refine ⟨ha, hp, hl', .inl ⟨hb, hcnt'.trans hmod'.symm, hdiv' ▸ hh, ?_⟩⟩
    rw [hmod', hdiv']
    exact hput

/-- With the whole message taken, FINAL pads its last block and starts it. -/
theorem finishing_padAndStart {alg : Alg} {m : List Byte} {s : State} (h : Absorbing alg m m.length s)
    (hb : s.busy = false) : Finishing alg m (padAndStart s) := by
  obtain ⟨-, hcnt, hh, hbuf⟩ := taken_of_idle h hb
  obtain ⟨ha, hp, hl, -⟩ := h
  have hwork : Compressing alg m (m.length / blockSize alg) (padAndStart s) := by
    refine compressing_startBlock hh (blockOf_eq_paddedBlock (div_lt_blockCount alg le_rfl) fun k hk => ?_)
    simp only [ha, hcnt]
    exact bufByte_padFirst_eq_pad hl hbuf hk
  refine ⟨ha, hl, ?_⟩
  by_cases hfits : m.length % blockSize alg ≤ blockSize alg - lenFieldSize alg - 1
  · refine .inr (.inl ⟨rfl, ?_, _, ?_, hwork⟩)
    · rw [padAndStart_nblk, ha, hcnt, if_pos ((lenFits_iff _ _).mpr hfits)]
    · rw [blockCount_eq, if_pos hfits]
  · refine .inl ⟨rfl, ?_, hfits, hwork⟩
    rw [padAndStart_nblk, ha, hcnt, if_neg (mt (lenFits_iff _ _).mp hfits)]

end Sys2Proof.Machine
end

section
/-! The run of a digest script (42_preprocessor.md R139, R141, 70_reset_and_hazards.md R257). -/

namespace Sys2Proof.Machine

/-! ### Harmless inputs (R141) -/

/-- The states differ at most in the error record, RESULT and the host's side. -/
def SameWork (s t : State) : Prop :=
  t = { s with err := t.err, errcode := t.errcode, result := t.result, inputs := t.inputs, reads := t.reads }

/-- The states have the same error record and RESULT. -/
def SameRecord (s t : State) : Prop := t.err = s.err ∧ t.errcode = s.errcode ∧ t.result = s.result

theorem SameRecord.trans {s t u : State} (h : SameRecord s t) (h' : SameRecord t u) : SameRecord s u := by
  obtain ⟨herr, hcode, hresult⟩ := h
  obtain ⟨herr', hcode', hresult'⟩ := h'
  exact ⟨herr'.trans herr, hcode'.trans hcode, hresult'.trans hresult⟩

theorem sameRecord_engineTurn (s : State) : SameRecord s (engineTurn s) := by
  obtain ⟨herr, hcode⟩ := engineTurn_record s
  exact ⟨herr, hcode, (engineTurn_frame s).2.2⟩

theorem sameRecord_absorbByte (b : Byte) (s : State) : SameRecord s (absorbByte b s) := by
  obtain ⟨herr, hcode⟩ := absorbByte_record b s
  exact ⟨herr, hcode, absorbByte_result b s⟩

theorem sameWork_raiseError (code : ErrCode) (s : State) : SameWork s (raiseError code s) := by
  simpa [SameWork] using raiseError_frame code s

/-- A command that neither begins, feeds nor ends a message goes on and leaves the engine's work alone. -/
theorem exec_of_not_feeds {i : Instr} (hi : feeds (.command i) = false) (s : State) :
    ∃ t, exec i s = .next t ∧ SameWork s t ∧ t.inputs = s.inputs := by
  rcases exec_cases i s with ⟨-, he⟩ | ⟨code, -, he⟩
  · cases i with
    | init _ | absorb _ | final => cases hi
    | nop | rdbyte _ | rdhex _ | rdb64 _ | rdchain _ _ | clrerr => exact ⟨_, he, rfl, rfl⟩
  · exact ⟨_, he, sameWork_raiseError code s, raiseError_inputs code s⟩

theorem harmless_of_silent {x : Input} (h : silent x = true) : harmless x = true := by
  cases x with
  | engineTurn => rfl
  | reset => exact h
  | busRead bits off => exact h
  | busWrite bits off v =>
    simp only [silent, harmless, Bool.and_eq_true, Bool.not_eq_true', Bool.and_eq_false_iff] at h ⊢
    refine ⟨h.1, h.2.imp_right fun hd => ?_⟩
    rw [bne_eq_false_iff_eq.mp hd]
    rfl

/-- A harmless input lets the machine go on: it is the engine's turn, or it leaves the engine's work alone; a silent one
leaves the record too. -/
theorem serveInput_harmless {x : Input} (hx : harmless x = true) (s : State) :
    ∃ t, serveInput x s = .next t ∧ t.inputs = s.inputs ∧
      ((x = .engineTurn ∧ t = engineTurn s) ∨ (x ≠ .engineTurn ∧ SameWork s t)) ∧ (silent x = true → SameRecord s t) := by
  cases x with
  | engineTurn => exact ⟨_, rfl, engineTurn_inputs s, .inl ⟨rfl, rfl⟩, fun _ => sameRecord_engineTurn s⟩
  | reset => cases hx
  | busRead bits off => exact ⟨busRead off s, if_pos hx, rfl, .inr ⟨nofun, rfl⟩, fun _ => ⟨rfl, rfl, rfl⟩⟩
  | busWrite bits off v =>
    simp only [harmless, Bool.and_eq_true, Bool.not_eq_true', Bool.and_eq_false_iff] at hx
    obtain ⟨ha, hfeeds⟩ := hx
    have hserve : serveInput (.busWrite bits off v) s = busWrite off v s := if_pos ha
    by_cases h0 : off = 0x00
    · subst h0
      have hfeeds : feeds (decode v) = false := hfeeds.resolve_left nofun
      have hsilent : silent (.busWrite bits 0x00 v) = true → decode v = .command .nop := by
        simp [silent, ha]
      rw [hserve, busWrite_cmd]
      cases hd : decode v with
      | illegal why =>
        exact ⟨_, execCmd_illegal v why s hd, raiseError_inputs _ s, .inr ⟨nofun, sameWork_raiseError _ s⟩,
          fun h => nomatch hd.symm.trans (hsilent h)⟩
      | command i =>
        obtain ⟨t, he, hwork, hinputs⟩ := exec_of_not_feeds (hd ▸ hfeeds) s
        refine ⟨t, (execCmd_command v i s hd).trans he, hinputs, .inr ⟨nofun, hwork⟩, fun h => ?_⟩
        cases hd.symm.trans (hsilent h)
        cases (nopChangesNothing.1 s).symm.trans he
        exact ⟨rfl, rfl, rfl⟩
    · exact ⟨s, hserve.trans (busWrite_of_ne v s h0), rfl, .inr ⟨nofun, rfl⟩, fun _ => ⟨rfl, rfl, rfl⟩⟩

/-! ### Runs that serve a list of inputs -/

/-- From `s` the machine serves the inputs `xs` one by one and goes on to `t`, with `rest` still to come. -/
def Serves (xs rest : List Input) (s t : State) : Prop := runSteps xs.length s = .next t ∧ t.inputs = rest

theorem Serves.cons {x : Input} {xs rest : List Input} {s t u : State} (h : step s = .next t)
    (h' : Serves xs rest t u) : Serves (x :: xs) rest s u :=
  ⟨(runSteps_succ xs.length h).trans h'.1, h'.2⟩

theorem Serves.append {xs ys rest : List Input} {s t u : State} (h : Serves xs (ys ++ rest) s t)
    (h' : Serves ys rest t u) : Serves (xs ++ ys) rest s u := by
  refine ⟨?_, h'.2⟩
  rw [List.length_append, runSteps_add _ _ h.1]
  exact h'.1

/-- The last two parts, after which nothing is to come. -/
theorem Serves.append_last {xs ys : List Input} {s t u : State} (h : Serves xs ys s t) (h' : Serves ys [] t u) :
    Serves (xs ++ ys) [] s u :=
  Serves.append (by rwa [List.append_nil]) h'

/-- What a gap of harmless inputs keeps, it keeps whatever the engine has done in it. -/
structure KeptInGaps (P : State → Prop) : Prop where
  work : ∀ {s t : State}, SameWork s t → P s → P t
  turn : ∀ {s : State}, P s → P (engineTurn s)

theorem SameWork.turnsLeft_eq {s t : State} (h : SameWork s t) : turnsLeft t = turnsLeft s := by
  rw [h]
  rfl

/-- A gap of harmless inputs keeps such a property and takes the engine's turns in it off those left; a silent one keeps
the record. -/
theorem serves_gap {P : State → Prop} (hP : KeptInGaps P) {xs : List Input} (rest : List Input)
    (hxs : ∀ x ∈ xs, harmless x = true) {s : State} (hs : P s) (hi : s.inputs = xs ++ rest) :
    ∃ t, Serves xs rest s t ∧ P t ∧ turnsLeft t ≤ turnsLeft s - xs.count .engineTurn ∧
      ((∀ x ∈ xs, silent x = true) → SameRecord s t) := by
  induction xs generalizing s with
  | nil => exact ⟨s, ⟨rfl, hi⟩, hs, le_rfl, fun _ => ⟨rfl, rfl, rfl⟩⟩
  | cons x xs ih =>
    obtain ⟨hx, hxs⟩ := List.forall_mem_cons.mp hxs
    have hs0 : P { s with inputs := xs ++ rest } := hP.work rfl hs
    obtain ⟨t, ht, hinputs, hcase, hrec⟩ := serveInput_harmless hx { s with inputs := xs ++ rest }
    have hstep : step s = .next t := (step_cons s x _ hi).trans ht
    have hkept : P t ∧ turnsLeft t ≤ turnsLeft s - [x].count .engineTurn := by
      rcases hcase with ⟨rfl, rfl⟩ | ⟨hne, hwork⟩
      · exact ⟨hP.turn hs0, (turnsLeft_engineTurn _).le⟩
      · exact ⟨hP.work hwork hs0, by rw [hwork.turnsLeft_eq, List.count_singleton, if_neg (by simpa using hne)]; rfl⟩
    obtain ⟨u, hu, hPu, hle, hrec'⟩ := ih hxs hkept.1 hinputs
    refine ⟨u, hu.cons hstep, hPu, ?_, fun hsilent => ?_⟩
    · have hle1 := hkept.2
      rw [← List.singleton_append, List.count_append]
      omega
    · obtain ⟨hsx, hsxs⟩ := List.forall_mem_cons.mp hsilent
      exact SameRecord.trans (hrec hsx) (hrec' hsxs)

theorem keptInGaps_absorbing (alg : Alg) (m : List Byte) (i : Nat) : KeptInGaps (Absorbing alg m i) where
  work := fun hwork h => hwork ▸ h
  turn := absorbing_engineTurn

theorem keptInGaps_finishing (alg : Alg) (m : List Byte) : KeptInGaps (Finishing alg m) where
  work := fun hwork h => hwork ▸ h
  turn := finishing_engineTurn

/-! ### The waits of the script are long enough (R212, R254) -/

/-- While absorbing, the engine has at most one block to go. -/
theorem turnsLeft_le_of_absorbing {alg : Alg} {m : List Byte} {i : Nat} {s : State} (h : Absorbing alg m i s) :
    turnsLeft s ≤ rounds alg + 1 := by
  obtain ⟨rfl, hp, -⟩ := h
  have hlast : ¬ (s.phase = .final ∧ s.nblk = 2) := fun h => nomatch hp.symm.trans h.1
  rw [turnsLeft, if_neg hlast]
  split <;> omega

/-- It can be busy only after a byte that ends a block. -/
theorem idle_of_absorbing {alg : Alg} {m : List Byte} {i : Nat} {s : State} (h : Absorbing alg m i s)
    (hi : i % blockSize alg = 0 → turnsLeft s = 0 ∨ i = 0) : s.busy = false := by
  obtain ⟨-, -, -, hidle | ⟨j, rfl, -⟩⟩ := h
  · exact hidle.1
  · rcases hi (Nat.mul_mod_left _ _) with hturns | h0
    · exact (turnsLeft_eq_zero_iff s).mp hturns
    · exact absurd h0 (Nat.mul_pos j.succ_pos (blockSize_pos alg)).ne'

/-- After FINAL's last turn the engine stands in DONE with the message's chaining value. -/
theorem done_of_finishing {alg : Alg} {m : List Byte} {s : State} (h : Finishing alg m s) (hb : s.busy = false) :
    s.phase = .done ∧ s.alg = alg ∧ s.len.toNat = m.length ∧ s.h = chainFile alg m (blockCount alg m.length) := by
  obtain ⟨ha, hlen, ⟨-, -, -, hwork⟩ | ⟨-, -, j, -, hwork⟩ | ⟨hp, -, hh⟩⟩ := h
  · cases hb.symm.trans hwork.1
  · cases hb.symm.trans hwork.1
  · exact ⟨hp, ha, hlen, hh⟩

/-! ### The parts of the script -/

/-- The next input writes a well-formed command to CMD. -/
theorem step_cmdWrite {i : Instr} (hi : i.WellFormed) {s : State} {rest : List Input}
    (h : s.inputs = cmdWrite (encode i) :: rest) : step s = exec i { s with inputs := rest } :=
  step_command h (decode_encode hi)

/-- INIT and the gap after it. -/
theorem serves_init (alg : Alg) (m : List Byte) {first : List Input} (rest : List Input)
    (hfirst : ∀ x ∈ first, harmless x = true) {s : State} (hb : s.busy = false)
    (hi : s.inputs = cmdWrite (encode (.init alg)) :: (first ++ rest)) :
    ∃ t, Serves (cmdWrite (encode (.init alg)) :: first) rest s t ∧ Absorbing alg m 0 t ∧ t.busy = false ∧
      ((∀ x ∈ first, silent x = true) → t.err = s.err ∧ t.errcode = s.errcode ∧ t.result = 0) := by
  have hstep := (step_cmdWrite rfl hi).trans (exec_init_of_not_busy alg hb)
  obtain ⟨t, ht, habs, -, hrec⟩ :=
    serves_gap (keptInGaps_absorbing alg m 0) rest hfirst
      (absorbing_beginDigest alg m (s := { s with inputs := first ++ rest }) hb) rfl
  exact ⟨t, ht.cons hstep, habs, idle_of_absorbing habs fun _ => .inr rfl, hrec⟩

/-- One ABSORB and the gap after it, in which the engine ends the block where the byte ended one. -/
theorem serves_absorb {alg : Alg} {m : List Byte} {i : Nat} {gap : List Input} (rest : List Input)
    (hgap : ∀ x ∈ gap, harmless x = true)
    (hwait : (i + 1) % blockSize alg = 0 → rounds alg + 1 ≤ gap.count .engineTurn) (hi : i < m.length)
    (hlen : m.length < 2 ^ 64) {s : State} (hs : Absorbing alg m i s) (hb : s.busy = false)
    (hinputs : s.inputs = cmdWrite (encode (.absorb (byteAt m i))) :: (gap ++ rest)) :
    ∃ t, Serves (cmdWrite (encode (.absorb (byteAt m i))) :: gap) rest s t ∧ Absorbing alg m (i + 1) t ∧
      t.busy = false ∧ ((∀ x ∈ gap, silent x = true) → SameRecord s t) := by
  have htaken := taken_of_idle hs hb
  obtain ⟨-, hp, hl, -⟩ := id hs
  have hmax : s.len ≠ maxLen := by
    intro h
    have hmaxLen : maxLen.toNat = 2 ^ 64 - 1 := rfl
    rw [h, hmaxLen] at hl
    omega
  have hexec : exec (.absorb (byteAt m i)) { s with inputs := gap ++ rest } =
      .next (absorbByte (byteAt m i) { s with inputs := gap ++ rest }) :=
    exec_absorb_of_accepted (rejection_absorb_eq_none _ hb hp hmax) htaken.bufcnt_lt
  have hstep := (step_cmdWrite rfl hinputs).trans hexec
  have hs' := absorbing_absorbByte (s := { s with inputs := gap ++ rest }) hs hb hi hlen
  obtain ⟨t, ht, habs, hturns, hrec⟩ := serves_gap (keptInGaps_absorbing alg m (i + 1)) rest hgap hs'
    (by rw [absorbByte_frame])
  refine ⟨t, ht.cons hstep, habs, idle_of_absorbing habs fun hmod => .inl ?_,
    fun hsilent => (sameRecord_absorbByte _ { s with inputs := gap ++ rest }).trans (hrec hsilent)⟩
  have hle := turnsLeft_le_of_absorbing hs'
  have hcount := hwait hmod
  omega

/-- FINAL and the gap after it, in which the engine ends the padding's blocks. -/
theorem serves_final {alg : Alg} {m : List Byte} {last : List Input} (hlast : ∀ x ∈ last, harmless x = true)
    (hwait : 2 * (rounds alg + 1) ≤ last.count .engineTurn) {s : State} (hs : Absorbing alg m m.length s)
    (hb : s.busy = false) (hinputs : s.inputs = cmdWrite (encode .final) :: last) :
    ∃ t, Serves (cmdWrite (encode .final) :: last) [] s t ∧ Finishing alg m t ∧ t.busy = false ∧
      ((∀ x ∈ last, silent x = true) → SameRecord s t) := by
  obtain ⟨-, hp, -⟩ := id hs
  have hexec : exec .final { s with inputs := last } = .next (padAndStart { s with inputs := last }) :=
    exec_final_of_accepted (rejection_final_eq_none hb hp) (taken_of_idle hs hb).bufcnt_lt
  have hstep := (step_cmdWrite rfl hinputs).trans hexec
  have hs' := finishing_padAndStart (s := { s with inputs := last }) hs hb
  obtain ⟨t, ht, hfin, hturns, hrec⟩ := serves_gap (keptInGaps_finishing alg m) [] hlast hs' (List.append_nil _).symm
  refine ⟨t, ht.cons hstep, hfin, (turnsLeft_eq_zero_iff t).mp ?_, hrec⟩
  have hle := turnsLeft_le (padAndStart { s with inputs := last })
  rw [hs'.1] at hle
  omega

/-- The commands of a message with the gaps after them. -/
def messageScript (m : GappedMessage) : List Input := m.flatMap fun p => cmdWrite (encode (.absorb p.1)) :: p.2

/-- The message's bytes from the `pre.length`-th on, one by one. -/
theorem serves_message {alg : Alg} {bytes : List Byte} (hlen : bytes.length < 2 ^ 64) (rest : List Input)
    (m : GappedMessage) (pre : List Byte) (hbytes : bytes = pre ++ m.map Prod.fst)
    (hgaps : ∀ p ∈ m, ∀ x ∈ p.2, harmless x = true)
    (hwaits : ∀ i p, m[i]? = some p → (pre.length + i + 1) % blockSize alg = 0 →
      rounds alg + 1 ≤ p.2.count .engineTurn)
    {s : State} (hs : Absorbing alg bytes pre.length s) (hb : s.busy = false)
    (hinputs : s.inputs = messageScript m ++ rest) :
    ∃ t, Serves (messageScript m) rest s t ∧ Absorbing alg bytes bytes.length t ∧ t.busy = false ∧
      ((∀ p ∈ m, ∀ x ∈ p.2, silent x = true) → SameRecord s t) := by
  induction m generalizing pre s with
  | nil =>
    have hpre : bytes = pre := hbytes.trans (List.append_nil pre)
    exact ⟨s, ⟨rfl, hinputs⟩, hpre ▸ hs, hb, fun _ => ⟨rfl, rfl, rfl⟩⟩
  | cons p m ih =>
    obtain ⟨b, gap⟩ := p
    obtain ⟨hgap, hgaps⟩ := List.forall_mem_cons.mp hgaps
    have hbyte : byteAt bytes pre.length = b := by
      rw [hbytes, byteAt_append, if_neg (lt_irrefl _), Nat.sub_self]
      rfl
    have hi : pre.length < bytes.length := by simp [hbytes]
    have hcons : messageScript ((b, gap) :: m) = (cmdWrite (encode (.absorb b)) :: gap) ++ messageScript m := rfl
    rw [hcons, List.append_assoc, List.cons_append, ← hbyte] at hinputs
    obtain ⟨t, ht, habs, hbt, hrec⟩ := serves_absorb (messageScript m ++ rest) hgap (hwaits 0 _ rfl) hi hlen hs hb hinputs
    have hpre : (pre ++ [b]).length = pre.length + 1 := by simp
    obtain ⟨u, hu, habs', hbu, hrec'⟩ := ih (pre ++ [b]) (by simp [hbytes]) hgaps
      (fun j q hq hmod => hwaits (j + 1) q hq (by rw [← hmod, hpre]; congr 1; omega)) (hpre ▸ habs) hbt ht.2
    refine ⟨u, hcons ▸ hbyte ▸ ht.append hu, habs', hbu, fun hsilent => ?_⟩
    obtain ⟨hsx, hsxs⟩ := List.forall_mem_cons.mp hsilent
    exact (hrec hsx).trans (hrec' hsxs)

/-- The whole script: it runs to its end and leaves the finished message; with silent gaps, the record as INIT left it. -/
theorem serves_digestScript {alg : Alg} {m : GappedMessage} {first last : List Input} {s : State}
    (hb : s.busy = false) (hlen : m.length < 2 ^ 64) (hgaps : gapsOk harmless alg first m last)
    (hinputs : s.inputs = digestScript alg first m last) :
    ∃ t, Serves (digestScript alg first m last) [] s t ∧ Finishing alg (m.map Prod.fst) t ∧ t.busy = false ∧
      (gapsOk silent alg first m last → t.err = s.err ∧ t.errcode = s.errcode ∧ t.result = 0) := by
  obtain ⟨hfirst, hmessage, hlast, hwaits, hwait⟩ := hgaps
  have hlen' : (m.map Prod.fst).length < 2 ^ 64 := by rwa [List.length_map]
  have hscript : digestScript alg first m last =
      (cmdWrite (encode (.init alg)) :: first) ++ (messageScript m ++ (cmdWrite (encode .final) :: last)) := by
    simp [digestScript, messageScript]
  rw [hscript] at hinputs ⊢
  obtain ⟨t, ht, habs, hbt, hrec⟩ := serves_init alg (m.map Prod.fst) _ hfirst hb hinputs
  obtain ⟨u, hu, habs', hbu, hrec'⟩ := serves_message hlen' _ m [] rfl hmessage
    (fun i p hp hmod => hwaits i p hp (by simpa using hmod)) habs hbt ht.2
  obtain ⟨v, hv, hfin, hbv, hrec''⟩ := serves_final hlast hwait habs' hbu hu.2
  refine ⟨v, ht.append_last (hu.append_last hv), hfin, hbv, fun ⟨hsf, hsm, hsl, _⟩ => ?_⟩
  obtain ⟨herr, hcode, hresult⟩ := hrec hsf
  obtain ⟨herr', hcode', hresult'⟩ := (hrec' hsm).trans (hrec'' hsl)
  exact ⟨herr'.trans herr, hcode'.trans hcode, hresult'.trans hresult⟩

/-- Settles O56: the script ends in DONE with the chaining value of every padded block, whose bytes are the digest. -/
theorem digestScriptComputesDigest : Obligations.DigestScriptComputesDigest := by
  intro alg m first last s hb hlen hgaps
  obtain ⟨t, ⟨hrun, hinputs⟩, hfin, hbt, -⟩ :=
    serves_digestScript (s := { s with inputs := digestScript alg first m last }) hb hlen hgaps rfl
  obtain ⟨hp, ha, hl, hh⟩ := done_of_finishing hfin hbt
  refine ⟨t, hrun, hinputs, hp, hbt, ha, by rw [hl, List.length_map], ?_⟩
  rw [ha, hh, digestBytes_chainFile]

/-- Settles O57: silent inputs are harmless, and the script's own commands are accepted. -/
theorem silentScriptRecordsNoError : Obligations.SilentScriptRecordsNoError := by
  intro alg m first last s hb hlen hsilent
  have hharmless : gapsOk harmless alg first m last := by
    obtain ⟨hfirst, hmessage, hlast, hwaits⟩ := hsilent
    exact ⟨fun x hx => harmless_of_silent (hfirst x hx), fun p hp x hx => harmless_of_silent (hmessage p hp x hx),
      fun x hx => harmless_of_silent (hlast x hx), hwaits⟩
  obtain ⟨t, ⟨hrun, -⟩, hfin, hbt, hrec⟩ :=
    serves_digestScript (s := { s with inputs := digestScript alg first m last }) hb hlen hharmless rfl
  exact ⟨t, hrun, (done_of_finishing hfin hbt).1, hrec hsilent⟩

end Sys2Proof.Machine
end
